-- ==== Sys2Proof/Word.lean ====
section
/-! DEFINITION. The word types of the block (00_scope.md rule R10). -/

namespace Sys2Proof

/-- A host register, a command word: 32 bits (rules R21, R110). -/
abbrev Word := BitVec 32

/-- An interface coordinate, a colour, a raw code register field: 16 bits (rule R8). -/
abbrev Half := BitVec 16

/-- A byte on the transport (rule R85). -/
abbrev Byte := BitVec 8

/-- An orientation: bit 0 is MX, bit 1 is MY, bit 2 is SWAP (rules R9, R31). -/
abbrev Orientation := BitVec 3

end Sys2Proof
end

