-- ==== Sys2Proof/Syntax.lean ====
section
/-! DEFINITION. The seventeen commands of the opcode table (30_encoding.md rule R114), one constructor a row,
with the modifier fields their formats use (rules R111, R112). -/

namespace Sys2Proof

/-- Field LS of the command word (rule R111). -/
inductive LineStyle where
  | solid
  | dotted
deriving DecidableEq, Repr, Inhabited

/-- Field FL of the command word (rule R111). -/
inductive FillStyle where
  | stroked
  | filled
deriving DecidableEq, Repr, Inhabited

/-- Field DS of the command word (rule R111): the stamp hangs from its anchor, or is centred on it. -/
inductive DotStyle where
  | anchored
  | fillAround
deriving DecidableEq, Repr, Inhabited

/-- One command (rule R114). `sz` is field SZ as a number (rule R115): the word gives it four bits, and acceptance
rejects what is not in 1..8 (rule R38), so 0 and 9..15 are commands too. -/
inductive Instr where
  | nop
  | beginPanel (orient : Orientation) (bl : Byte)
  | setOrient (orient : Orientation)
  | setWindow
  | stream
  | setPixel
  | fillArea
  | clear
  | drawPoint (sz : Nat) (ds : DotStyle)
  | drawLine (sz : Nat) (ls : LineStyle) (ds : DotStyle)
  | drawRect (sz : Nat) (ls : LineStyle) (fl : FillStyle) (ds : DotStyle)
  | drawCircle (sz : Nat) (fl : FillStyle) (ds : DotStyle)
  | touchRaw
  | touchAvg
  | touchTwice
  | touchScan
  | map
deriving DecidableEq, Repr, Inhabited

end Sys2Proof
end

