-- ==== Sys2Proof/WellFormed.lean ====
section
/-! DEFINITION. Which commands a command word can spell: every field fits the bits its format gives it (rule R111).
OR and BL fit by their types; SZ is a number and is checked. -/

namespace Sys2Proof

/-- Field SZ has four bits (rule R111). -/
def sizeFits (sz : Nat) : Bool := decide (sz < 16)

/-- A command some command word spells. A size of 0 or of 9..15 is well formed and is rejected with EARG (rule R115). -/
def Instr.wellFormed : Instr → Bool
  | .nop => true
  | .beginPanel _ _ => true
  | .setOrient _ => true
  | .setWindow => true
  | .stream => true
  | .setPixel => true
  | .fillArea => true
  | .clear => true
  | .drawPoint sz _ => sizeFits sz
  | .drawLine sz _ _ => sizeFits sz
  | .drawRect sz _ _ _ => sizeFits sz
  | .drawCircle sz _ _ => sizeFits sz
  | .touchRaw => true
  | .touchAvg => true
  | .touchTwice => true
  | .touchScan => true
  | .map => true

end Sys2Proof
end

