-- ==== Sys2Proof/Decode.lean ====
section
/-! DEFINITION. The command decoder and encoder (30_encoding.md rules R110 to R118). -/

namespace Sys2Proof

/-! ### Fields of a word (rules R10, R111, R115) -/

/-- `v[11:8]`. -/
def fieldSZ (v : Word) : Nat := (v.extractLsb' 8 4).toNat

/-- `v[12]`. -/
def fieldLS (v : Word) : LineStyle := if v.getLsbD 12 then .dotted else .solid

/-- `v[13]`. -/
def fieldFL (v : Word) : FillStyle := if v.getLsbD 13 then .filled else .stroked

/-- `v[14]`. -/
def fieldDS (v : Word) : DotStyle := if v.getLsbD 14 then .fillAround else .anchored

/-- `v[18:16]`. -/
def fieldOR (v : Word) : Orientation := v.extractLsb' 16 3

/-- `v[31:24]`. -/
def fieldBL (v : Word) : Byte := v.extractLsb' 24 8

/-! ### The opcode map (rule R114) -/

/-- One row of the opcode map: a word `v` spells the command exactly when `v and mask = pattern`. -/
structure Row where
  mnemonic : String
  pattern : Word
  mask : Word
  build : Word → Instr

/-- The seventeen rows of rule R114, in its order. -/
def opcodeMap : List Row :=
  [ ⟨"NOP", 0x00000000, 0xFFFFFFFF, fun _ => .nop⟩,
    ⟨"BEGIN", 0x00000001, 0x00F8FFFF, fun v => .beginPanel (fieldOR v) (fieldBL v)⟩,
    ⟨"SET_ORIENT", 0x00000002, 0xFFF8FFFF, fun v => .setOrient (fieldOR v)⟩,
    ⟨"SET_WINDOW", 0x00000003, 0xFFFFFFFF, fun _ => .setWindow⟩,
    ⟨"STREAM", 0x00000004, 0xFFFFFFFF, fun _ => .stream⟩,
    ⟨"SET_PIXEL", 0x00000005, 0xFFFFFFFF, fun _ => .setPixel⟩,
    ⟨"FILL_AREA", 0x00000006, 0xFFFFFFFF, fun _ => .fillArea⟩,
    ⟨"CLEAR", 0x00000007, 0xFFFFFFFF, fun _ => .clear⟩,
    ⟨"DRAW_POINT", 0x00000010, 0xFFFFB0FF, fun v => .drawPoint (fieldSZ v) (fieldDS v)⟩,
    ⟨"DRAW_LINE", 0x00000011, 0xFFFFA0FF, fun v => .drawLine (fieldSZ v) (fieldLS v) (fieldDS v)⟩,
    ⟨"DRAW_RECT", 0x00000012, 0xFFFF80FF,
      fun v => .drawRect (fieldSZ v) (fieldLS v) (fieldFL v) (fieldDS v)⟩,
    ⟨"DRAW_CIRCLE", 0x00000013, 0xFFFF90FF, fun v => .drawCircle (fieldSZ v) (fieldFL v) (fieldDS v)⟩,
    ⟨"TOUCH_RAW", 0x00000020, 0xFFFFFFFF, fun _ => .touchRaw⟩,
    ⟨"TOUCH_AVG", 0x00000021, 0xFFFFFFFF, fun _ => .touchAvg⟩,
    ⟨"TOUCH_TWICE", 0x00000022, 0xFFFFFFFF, fun _ => .touchTwice⟩,
    ⟨"TOUCH_SCAN", 0x00000023, 0xFFFFFFFF, fun _ => .touchScan⟩,
    ⟨"MAP", 0x00000030, 0xFFFFFFFF, fun _ => .map⟩ ]

/-- Does the word `v` spell the row's command (rule R114)? -/
def Row.spells (r : Row) (v : Word) : Bool := v &&& r.mask == r.pattern

/-- The two ways a word is illegal (rule R118). -/
inductive Illegal where
  /-- The OP byte is in no row of the opcode map. -/
  | unassignedOp
  /-- The OP byte is assigned and a reserved bit of its row is 1 (rule R113). -/
  | reservedBit
deriving DecidableEq, Repr

/-- What the decoder answers. -/
inductive Decoded where
  | instr (i : Instr)
  | illegal (why : Illegal)
deriving DecidableEq, Repr

/-- The loop of rule R117 over the rows. -/
def decodeRows : List Row → Word → Option Instr
  | [], _ => none
  | r :: rs, v => if r.spells v then some (r.build v) else decodeRows rs v

/-- Is the OP byte of `v` that of some row? -/
def opAssigned (v : Word) : Bool :=
  opcodeMap.any fun r => v.extractLsb' 0 8 == r.pattern.extractLsb' 0 8

/-- The decoder of rule R117, total on 32-bit words; an illegal word is rejected by name (rule R118). -/
def decode (v : Word) : Decoded :=
  match decodeRows opcodeMap v with
  | some i => .instr i
  | none => .illegal (if opAssigned v then .reservedBit else .unassignedOp)

/-! ### The encoder (rules R111, R112) -/

/-- The four SZ bits. -/
def sizeBits (sz : Nat) : BitVec 4 := BitVec.ofNat 4 sz

/-- The LS bit. -/
def LineStyle.bit : LineStyle → BitVec 1
  | .solid => 0
  | .dotted => 1

/-- The FL bit. -/
def FillStyle.bit : FillStyle → BitVec 1
  | .stroked => 0
  | .filled => 1

/-- The DS bit. -/
def DotStyle.bit : DotStyle → BitVec 1
  | .anchored => 0
  | .fillAround => 1

/-- The command word of a command: the layouts of rule R112, bit 31 leftmost. -/
def encode : Instr → Word
  | .nop => 0x00000000
  | .beginPanel o bl => bl ++ 0#5 ++ o ++ 0#8 ++ 0x01#8
  | .setOrient o => 0#8 ++ 0#5 ++ o ++ 0#8 ++ 0x02#8
  | .setWindow => 0x00000003
  | .stream => 0x00000004
  | .setPixel => 0x00000005
  | .fillArea => 0x00000006
  | .clear => 0x00000007
  | .drawPoint sz ds => 0#16 ++ 0#1 ++ ds.bit ++ 0#1 ++ 0#1 ++ sizeBits sz ++ 0x10#8
  | .drawLine sz ls ds => 0#16 ++ 0#1 ++ ds.bit ++ 0#1 ++ ls.bit ++ sizeBits sz ++ 0x11#8
  | .drawRect sz ls fl ds => 0#16 ++ 0#1 ++ ds.bit ++ fl.bit ++ ls.bit ++ sizeBits sz ++ 0x12#8
  | .drawCircle sz fl ds => 0#16 ++ 0#1 ++ ds.bit ++ fl.bit ++ 0#1 ++ sizeBits sz ++ 0x13#8
  | .touchRaw => 0x00000020
  | .touchAvg => 0x00000021
  | .touchTwice => 0x00000022
  | .touchScan => 0x00000023
  | .map => 0x00000030

/-! ### The host's question about table words -/

/-- The command word of an instruction given as a number with bit 0 least significant: a command is one word
(rule R110), so a number that needs more than 32 bits is no command word. -/
def tableWord (nbits w : Nat) : Option Word :=
  if w % 2 ^ nbits < 2 ^ 32 then some (BitVec.ofNat 32 (w % 2 ^ nbits)) else none

/-- The command the decoder reads from an instruction whose bits are `w`, or `none` where it refuses. -/
def decodeTableWord (nbits w : Nat) : Option Instr :=
  match tableWord nbits w with
  | none => none
  | some v =>
    match decode v with
    | .instr i => some i
    | .illegal _ => none

end Sys2Proof
end

