-- ==== Sys2Proof/Machine/Memory.lean ====
section
/-! DEFINITION. Memory as plain data: a list of cells in one canonical form, and its read and write. The block has no
memory of its own (20_memory.md rule R72); the one memory of the machine is the external panel's frame memory
(rules R84, R86), whose unlisted bytes are the spec's `unknown`. -/

namespace Sys2Proof.Machine

/-- A memory: the listed bytes, by address. An address that is not listed reads as unknown. -/
abbrev Memory := List Host.Cell

/-- The byte at an address; `none` is the spec's `unknown` (rule R86). -/
def Memory.read : Memory → Nat → Option Byte
  | [], _ => none
  | (k, b) :: m, a => if a = k then some b else Memory.read m a

/-- Stores one byte, keeping the addresses strictly rising. -/
def Memory.write : Memory → Nat → Byte → Memory
  | [], a, b => [(a, b)]
  | (k, c) :: m, a, b =>
    if a < k then (a, b) :: (k, c) :: m
    else if a = k then (a, b) :: m
    else (k, c) :: Memory.write m a b

/-- Is every address of the memory above `lo`? -/
def Memory.above (lo : Nat) : Memory → Bool
  | [] => true
  | (k, _) :: m => decide (lo < k) && Memory.above lo m

/-- The canonical form: addresses strictly rising. No listed cell can equal what an unlisted address reads as, since
that is no byte. -/
def Memory.wf : Memory → Bool
  | [] => true
  | (k, _) :: m => Memory.above k m && Memory.wf m

/-- The frame memory address of one byte of pixel (x, y): the high byte of the colour at the even address. The
coordinates are those of the interface, 16 bits each, so the address does not depend on the orientation (log
entry 12). -/
def pixelAddr (x y : Nat) (low : Bool) : Nat := 2 * (65536 * y + x) + low.toNat

/-- The pixel `IMG[x, y]`, or `none` when it is unknown (rule R86). -/
def readPixel (m : Memory) (x y : Nat) : Option Half :=
  match Memory.read m (pixelAddr x y false), Memory.read m (pixelAddr x y true) with
  | some hi, some lo => some (hi ++ lo)
  | _, _ => none

/-- `IMG[x, y] <- w` (rule R89). -/
def writePixel (m : Memory) (x y : Nat) (w : Half) : Memory :=
  Memory.write (Memory.write m (pixelAddr x y false) (w.extractLsb' 8 8)) (pixelAddr x y true)
    (w.extractLsb' 0 8)

end Sys2Proof.Machine
end

