-- ==== Sys2Proof/Config.lean ====
section
/-! DEFINITION. The implementation parameters (00_scope.md rule R8 and the OPEN list of 92_eei_decisions.md), the
constraints the spec puts on them, and the free values: constants with no body, so that nothing can be proved of
what they are. -/

namespace Sys2Proof

/-- One register write of ORIENT_REGS (rule R8): a register address and its data bytes. -/
structure RegWrite where
  reg : Byte
  data : List Byte
deriving DecidableEq, Repr, Inhabited

/-- One entry of INIT_TABLE (rule R148): a register address, its data bytes and a wait in microseconds. -/
structure InitEntry where
  reg : Byte
  data : List Byte
  postWait : Nat
deriving DecidableEq, Repr, Inhabited

/-- One row of ORIENT_MAP (rule R261). -/
structure OrientRow where
  supported : Bool
  swap : Bool
  negX : Bool
  negY : Bool
deriving DecidableEq, Repr, Inhabited

/-- The parameters the model takes as arguments (rule R8). Times are microseconds, rates hertz. -/
structure Config where
  /-- BASE, the byte address of the register window (rule R72). No rule gives the width of a host address: 32 bits is
  the model's choice (log entry 33, DESIGN CHOICE). -/
  base : BitVec 32
  nativeW : Nat
  nativeH : Nat
  fClk : Nat
  fFast : Nat
  fSlow : Nat
  tRstPre : Nat
  tRstHold : Nat
  tRstPost : Nat
  initTable : List InitEntry
  orientRegs : Vector (List RegWrite) 8
  tOrientSettle : Nat
  tSlpout : Nat
  tDispon : Nat
  regCaset : Byte
  regPaset : Byte
  regRamwr : Byte
  regSlpout : Byte
  regDispon : Byte
  touchCmdX : Byte
  touchCmdY : Byte
  tTsettle : Nat
  tInter : Nat
  touchN : Nat
  touchTol : Nat
  penDetect : Bool
  orientMap : Vector OrientRow 8
  lineAxisSwap : Bool
  /-- The electrical level of an asserted PRST (rule R45: polarities are platform parameters). -/
  prstAssertedLevel : Bool
  /-- The electrical level of an asserted PCS. -/
  pcsAssertedLevel : Bool
  /-- The electrical level of an asserted TCS. -/
  tcsAssertedLevel : Bool
deriving DecidableEq, Repr, Inhabited

/-- What the spec requires of the parameters: the panel dimensions (rule R9), the two serial rates (rule R8), the
number of samples (rule R233) and the alignment of BASE (rule R72). -/
def Config.wf (c : Config) : Bool :=
  decide (1 ≤ c.nativeW) && decide (c.nativeW ≤ 32767) &&
  decide (1 ≤ c.nativeH) && decide (c.nativeH ≤ 32767) &&
  decide (c.fSlow < c.fFast) && decide (3 ≤ c.touchN) &&
  decide (c.base.toNat % 128 = 0)

/-- The platform's own values for the OPEN parameters. FREE VALUE: no body (log entry 3). -/
opaque Config.platformValues : Config

/-- The byte the touch controller answers at the `n`-th draw, where State holds none (rule R97). FREE VALUE: no body
(log entry 5). -/
opaque Config.touchByte : Nat → Byte

/-- Whether PEN_N is low at the `n`-th draw, where State holds no level (rules R82, R97). FREE VALUE: no body (log
entry 5). -/
opaque Config.penIsDown : Nat → Bool

/-- Whether DC is at the data level where no rule gives its level: after every event but a panel byte (rule R79). FREE
VALUE: no body (log entry 7). -/
opaque Config.dcIsData : Nat → Bool

/-- The level of MOSI where no rule gives it: after every event but a received byte (rule R81). FREE VALUE: no body (log
entry 7). -/
opaque Config.mosiRest : Nat → Bool

end Sys2Proof
end

