-- ==== Sys2Proof/Machine/Platform.lean ====
section
/-! DEFINITION. The parameters of the machine that State.reset starts: the platform's values, with the values the
spec itself fixes or gives as its default decision in their places (00_scope.md rule R8). -/

namespace Sys2Proof.Machine

/-- A row of ORIENT_MAP for an orientation without a formula (rule R262). -/
def unsupportedRow : OrientRow := ⟨false, false, false, false⟩

/-- The default ORIENT_MAP (rule R262): the four pure rotations 0, 3, 5 and 6. -/
def defaultOrientMap : Vector OrientRow 8 :=
  #v[⟨true, false, false, false⟩, unsupportedRow, unsupportedRow, ⟨true, false, true, true⟩,
     unsupportedRow, ⟨true, true, true, false⟩, ⟨true, true, false, true⟩, unsupportedRow]

/-- TOUCH_N, the raw samples of one average: 5, the source's value (rule R8). -/
def sourceTouchN : Nat := 5

/-- `c` with TOUCH_N, LINE_AXIS_SWAP and ORIENT_MAP as the spec fixes or decides them (rule R8). -/
def withSpecValues (c : Config) : Config :=
  { c with touchN := sourceTouchN, lineAxisSwap := false, orientMap := defaultOrientMap }

/-- `c` where it meets the spec's constraints on the parameters; else the same with the constrained parameters at
values that do (log entry 3). -/
def constrained (c : Config) : Config :=
  if c.wf then c
  else { c with base := 0, nativeW := 1, nativeH := 1, fSlow := 0, fFast := 1, touchN := 5 }

/-- The parameters of the machine: the platform's, of which nothing is known but the spec's constraints. -/
def platform : Config := constrained (withSpecValues Config.platformValues)

end Sys2Proof.Machine
end

