-- ==== Sys2Proof/Machine/Transport.lean ====
section
/-! DEFINITION. The transport events (20_memory.md rule R75), what a command procedure says (Act), and what the
engine still has to do of it (Slot, 10_state.md rule R41). -/

namespace Sys2Proof.Machine

/-- The two devices on the transport (rule R75). -/
inductive Device where
  | panel
  | touch
deriving DecidableEq, Repr

/-- The two serial rates, F_FAST and F_SLOW (rule R77). -/
inductive Rate where
  | fast
  | slow
deriving DecidableEq, Repr

/-- The levels of PRST (rule R45). -/
inductive Level where
  | asserted
  | released
deriving DecidableEq, Repr

/-- The DC strobe: 0 is a command byte, 1 a data byte (rule R79). -/
inductive Strobe where
  | command
  | data
deriving DecidableEq, Repr

/-- The level PEN_N samples as (rule R82). -/
inductive Pen where
  | down
  | up
deriving DecidableEq, Repr

/-- One transport event (rule R75). -/
inductive Event where
  /-- `RST(l)` -/
  | rst (l : Level)
  /-- `OPEN(dev, rate)` -/
  | opened (dev : Device) (rate : Rate)
  /-- `CLOSE(dev)` -/
  | closed (dev : Device)
  /-- `PTX(dc, b)` -/
  | ptx (dc : Strobe) (b : Byte)
  /-- `TTX(b)` -/
  | ttx (b : Byte)
  /-- `TRX(b)` -/
  | trx (b : Byte)
  /-- `WAIT(t)` -/
  | wait (t : Nat)
  /-- `BL(v)` -/
  | bl (v : Byte)
  /-- `PEN(p)` -/
  | pen (p : Pen)
deriving DecidableEq, Repr

/-- One transport statement of a command procedure, in the pseudocode's own words. -/
inductive Act where
  /-- `ensure(dev)` (rule R141) -/
  | ensure (dev : Device)
  /-- `emit e` for an event that the command fixes -/
  | emit (e : Event)
  /-- `WAIT(t)`, no event when t is 0 (rule R80) -/
  | wait (t : Nat)
  /-- `b <- oracle byte; emit TRX(b)` (rule R231) -/
  | receive
  /-- `p <- oracle pen level; emit PEN(p)`, and on UP go to the end of the procedure (rules R243, R244) -/
  | samplePen
  /-- `finish()` (rule R141) -/
  | finish
deriving DecidableEq, Repr

/-- One event the engine still has to make: known in advance, or with a value the outside world supplies. -/
inductive Slot where
  | emit (e : Event)
  | receive
  | samplePen
deriving DecidableEq, Repr

end Sys2Proof.Machine
end

