-- ==== Sys2Proof/Machine/State.lean ====
section
/-! DEFINITION. The state of the machine as plain data, the reasons a step can stop, and the state after reset
(10_state.md rules R20 to R54). -/

namespace Sys2Proof.Machine

/-- The STATUS bits the block stores (rule R23). BUSY is not stored here: it equals ENG (rule R41). Reserved bits
have no storage: they read 0 and ignore writes (rule R23). -/
structure Status where
  /-- bit 1 -/
  ready : Bool
  /-- bit 2 -/
  dirty : Bool
  /-- bit 3 -/
  winopen : Bool
  /-- bit 4 -/
  tvalid : Bool
  /-- bit 5 -/
  pressed : Bool
  /-- bit 8, W1C -/
  done : Bool
  /-- bit 9, W1C -/
  ovr : Bool
  /-- bit 10, W1C -/
  ill : Bool
  /-- bit 11, W1C -/
  earg : Bool
  /-- bit 12, W1C -/
  nrdy : Bool
  /-- bit 13, W1C -/
  eseq : Bool
  /-- bit 14, W1C -/
  unsup : Bool
  /-- bit 15, W1C -/
  maperr : Bool
  /-- bit 16, W1C -/
  justp : Bool
deriving DecidableEq, Repr

/-- Four argument words: ARG0 to ARG3 (rule R47), and their latches ARGL0 to ARGL3 (rule R39). -/
structure Args where
  a0 : Word
  a1 : Word
  a2 : Word
  a3 : Word
deriving DecidableEq, Repr

/-- One calibration bank: four binary32 bit patterns (rule R35). -/
structure CalBank where
  xfac : Word
  yfac : Word
  xoff : Word
  yoff : Word
deriving DecidableEq, Repr

/-- SESS: whether a session to each device is open (rule R41). PCS and TCS are asserted exactly during the sessions
(rule R45), so they are read off it. -/
structure Sessions where
  panel : Bool
  touch : Bool
deriving DecidableEq, Repr

/-- The output pins that no other field gives (rule R45), at their levels between two events. -/
structure Pins where
  prst : Level
  dc : Strobe
  sclk : Bool
  mosi : Bool
  bl : Byte
deriving DecidableEq, Repr

/-- The panel's mode (rule R87). CASET and PASET hold the parameter bytes received so far. WRITE holds the write
pointer, `none` where it is unknown (log entry 15), and the high byte of a word half received. -/
inductive PanelMode where
  | idle
  | caset (got : List Byte)
  | paset (got : List Byte)
  | write (pointer : Option (Nat × Nat)) (high : Option Byte)
deriving DecidableEq, Repr

/-- The external panel, as far as the spec assumes its behaviour (rules R86 to R92). -/
structure Panel where
  /-- IMG -/
  img : Memory
  /-- XS, unknown until set -/
  xs : Option Half
  /-- XE -/
  xe : Option Half
  /-- YS -/
  ys : Option Half
  /-- YE -/
  ye : Option Half
  mode : PanelMode
deriving DecidableEq, Repr

/-- A running command: its decoded word, the events still to make (rule R41), the response bytes and the pen level it
has drawn so far, and whether it has begun a pixel write (rule R42). -/
structure Running where
  cmd : Instr
  todo : List Slot
  rx : List Byte
  pen : Option Pen
  ramwr : Bool
deriving DecidableEq, Repr

/-- ENG (rule R41). -/
inductive Engine where
  | idle
  | run (r : Running)
deriving DecidableEq, Repr

/-- One host bus access at a byte offset from BASE, with its width in bytes (rule R70). -/
inductive Access where
  | read (off : Nat) (width : Nat)
  | write (off : Nat) (width : Nat) (v : Word)
deriving DecidableEq, Repr

/-- What the outside world does next (log entry 1). The list of these in State fixes how the host's accesses and the
engine's events fall between each other (70_reset_and_hazards.md rule R336). -/
inductive Input where
  /-- The host makes one access; with `tick`, a running engine takes its next step in the same clock cycle. -/
  | access (a : Access) (tick : Bool)
  /-- The host's `POLL` loop (30_encoding.md rule R121). -/
  | poll
  /-- The host makes no access while the engine takes one step. -/
  | engine
  /-- RST_N is 0 for one cycle, in which the host may try an access (rule R310). -/
  | reset (a : Option Access)
deriving DecidableEq, Repr

/-- What the host got from one read. -/
structure ReadData where
  off : Nat
  value : Word
deriving DecidableEq, Repr

/-- Why the machine would stop with a fault. There is no constructor: the spec gives the block no fault, no trap and
no stuck state (60_exceptions.md rule R280, 93_implementation_defined.md section 1), so no step raises one. Safe. -/
inductive Fault where
deriving DecidableEq, Repr

/-- Why the machine gives an input no meaning. -/
inductive Refusal where
  /-- Raised by exec's arm of a command that has no meaning yet; no arm is left so. Safe. -/
  | notModelled (mnemonic : String)
  /-- Raised by a host access of another width than 4, at an unaligned offset or at an offset of 0x80 or above
  (rule R70): the platform's bus decides what it does, and no source says. Safe. -/
  | busAccess (off : Nat) (width : Nat)
deriving DecidableEq, Repr

/-- The whole machine. The first group is the block's (rules R21, R41, R43, R45), the second the external panel and
the transport log (rules R75, R86), the third the model's own. -/
structure State where
  status : Status
  /-- ARG0 to ARG3 -/
  arg : Args
  /-- ORIENT; GEOM is `dims` of it (rule R30) -/
  orient : Orientation
  traw : Word
  tsx : Word
  tsy : Word
  calSel : BitVec 3
  /-- CAL[0..7] -/
  cal : Vector CalBank 8
  calValid : BitVec 8
  /-- ENG; BUSY equals it -/
  engine : Engine
  cmdl : Word
  /-- ARGL0 to ARGL3 -/
  argl : Args
  /-- SESS -/
  sess : Sessions
  dotcnt : Nat
  pins : Pins
  /-- the external panel (rule R86) -/
  panel : Panel
  /-- the transport event log, oldest event first (rule R75) -/
  log : List Event
  /-- what the host's reads returned, oldest first -/
  reads : List ReadData
  /-- the parameters (rule R8); no step changes them -/
  cfg : Config
  /-- what the host and RST_N do next -/
  inputs : List Input
  /-- the touch controller's next response bytes, where they are given (rule R97) -/
  touchIn : List Byte
  /-- the next pen levels, where they are given (rule R97) -/
  penIn : List Pen
  /-- how many events the engine has made: the index of the next free value -/
  draws : Nat
deriving DecidableEq, Repr

/-- STATUS after reset: every bit 0 (rule R54). -/
def Status.reset : Status :=
  { ready := false, dirty := false, winopen := false, tvalid := false, pressed := false, done := false,
    ovr := false, ill := false, earg := false, nrdy := false, eseq := false, unsup := false,
    maperr := false, justp := false }

/-- ARG0 to ARG3 and their latches after reset (rule R54). -/
def Args.reset : Args := ⟨0, 0, 0, 0⟩

/-- A calibration bank after reset: four times +0.0 (rule R54). -/
def CalBank.reset : CalBank := ⟨0, 0, 0, 0⟩

/-- No session is open (rule R54). -/
def Sessions.closed : Sessions := ⟨false, false⟩

/-- The pins after reset (rule R45). -/
def Pins.reset : Pins := { prst := .released, dc := .command, sclk := false, mosi := false, bl := 0 }

/-- The panel before anything reached it: image and address state unknown (rules R86, R87, R312). -/
def Panel.reset : Panel := { img := [], xs := none, xe := none, ys := none, ye := none, mode := .idle }

/-- The machine right after block reset (rule R54), with the platform's parameters, an empty log and nothing placed:
the host's program is an input from outside (log entry 2). -/
def State.reset : State where
  status := Status.reset
  arg := Args.reset
  orient := 0
  traw := 0
  tsx := 0
  tsy := 0
  calSel := 0
  cal := Vector.replicate 8 CalBank.reset
  calValid := 0
  engine := .idle
  cmdl := 0
  argl := Args.reset
  sess := Sessions.closed
  dotcnt := 0
  pins := Pins.reset
  panel := Panel.reset
  log := []
  reads := []
  cfg := platform
  inputs := []
  touchIn := []
  penIn := []
  draws := 0

end Sys2Proof.Machine
end

