-- ==== Sys2Proof/Machine/Flags.lean ====
section
/-! DEFINITION. STATUS: how the bits are read, cleared by the host, and set (10_state.md rules R23, R24, R40). -/

namespace Sys2Proof.Machine

/-- BUSY: the engine is running a command; it equals ENG (rules R23, R41). -/
def State.busy (s : State) : Bool :=
  match s.engine with
  | .idle => false
  | .run _ => true

/-- The STATUS word, bit 0 first (rule R23); reserved bits 6, 7 and 17 to 31 read 0. -/
def Status.toWord (busy : Bool) (st : Status) : Word :=
  (BitVec.ofBoolListLE
    [busy, st.ready, st.dirty, st.winopen, st.tvalid, st.pressed, false, false,
     st.done, st.ovr, st.ill, st.earg, st.nrdy, st.eseq, st.unsup, st.maperr, st.justp]).setWidth 32

/-- A host write of `v` to STATUS clears the W1C bits written as 1 and leaves the others (rule R24). -/
def Status.clearW1C (v : Word) (st : Status) : Status :=
  { st with
    done := st.done && !v.getLsbD 8
    ovr := st.ovr && !v.getLsbD 9
    ill := st.ill && !v.getLsbD 10
    earg := st.earg && !v.getLsbD 11
    nrdy := st.nrdy && !v.getLsbD 12
    eseq := st.eseq && !v.getLsbD 13
    unsup := st.unsup && !v.getLsbD 14
    maperr := st.maperr && !v.getLsbD 15
    justp := st.justp && !v.getLsbD 16 }

/-- An overrun sets OVR and nothing else (rules R38, R50, R281). -/
def State.overrun (s : State) : State := { s with status := { s.status with ovr := true } }

/-- A word that is no command sets ILL and DONE (rules R38, R118). -/
def State.rejectIll (s : State) : State := { s with status := { s.status with ill := true, done := true } }

/-- An illegal field value sets EARG and DONE (rule R38). -/
def State.rejectEarg (s : State) : State := { s with status := { s.status with earg := true, done := true } }

/-- A panel or rasterizer command before BEGIN sets NRDY and DONE (rules R38, R52). -/
def State.rejectNrdy (s : State) : State := { s with status := { s.status with nrdy := true, done := true } }

/-- The state with ENG at another value (rule R41). -/
def State.setEngine (g : Engine) (s : State) : State := { s with engine := g }

/-- The end of every commit: BUSY to 0 and DONE to 1 in the same cycle (rule R40). -/
def State.complete (s : State) : State :=
  { s with engine := .idle, status := { s.status with done := true } }

end Sys2Proof.Machine
end

