-- ==== Sys2Proof/Machine/Operands.lean ====
section
/-! DEFINITION. The operand forms: fields of the argument words (10_state.md rules R26 to R29, 30_encoding.md rule
R116), the orientation's flags and dimensions (rules R9, R12, R31), and indexing by orientation. -/

namespace Sys2Proof.Machine

/-- `v[15:0]`. -/
def lowHalf (v : Word) : Half := v.extractLsb' 0 16

/-- `v[31:16]`. -/
def highHalf (v : Word) : Half := v.extractLsb' 16 16

/-- `{a, b}` of two halves (rule R10). -/
def packHalves (a b : Half) : Word := a ++ b

/-- X0 (rule R116); MAP's RX (rule R26). -/
def Args.x0 (a : Args) : Nat := (lowHalf a.a0).toNat

/-- Y0 (rule R116); MAP's RY (rule R26). -/
def Args.y0 (a : Args) : Nat := (highHalf a.a0).toNat

/-- X1 (rule R116). -/
def Args.x1 (a : Args) : Nat := (lowHalf a.a1).toNat

/-- Y1 (rule R116). -/
def Args.y1 (a : Args) : Nat := (highHalf a.a1).toNat

/-- FG (rule R116). -/
def Args.fg (a : Args) : Half := lowHalf a.a2

/-- BG (rule R116). -/
def Args.bg (a : Args) : Half := highHalf a.a2

/-- N (rule R116): all 32 bits. -/
def Args.count (a : Args) : Nat := a.a3.toNat

/-- The radius R = ARG3[15:0] (rules R29, R116). -/
def Args.radius (a : Args) : Nat := (lowHalf a.a3).toNat

/-- MX of an orientation (rule R31). -/
def mirrorX (o : Orientation) : Bool := o.getLsbD 0

/-- MY of an orientation (rule R31). -/
def mirrorY (o : Orientation) : Bool := o.getLsbD 1

/-- SWAP of an orientation (rule R31). -/
def swapAxes (o : Orientation) : Bool := o.getLsbD 2

/-- W of `dims(o)` (rule R9). -/
def width (c : Config) (o : Orientation) : Nat := if swapAxes o then c.nativeH else c.nativeW

/-- H of `dims(o)` (rule R9). -/
def height (c : Config) (o : Orientation) : Nat := if swapAxes o then c.nativeW else c.nativeH

/-- `InBounds(x, y)` (rule R12). -/
def inBounds (c : Config) (o : Orientation) (x y : Int) : Bool :=
  decide (0 ≤ x) && decide (x < width c o) && decide (0 ≤ y) && decide (y < height c o)

/-- `WinOK(x0, y0, x1, y1)` (rule R12). -/
def winOK (c : Config) (o : Orientation) (x0 y0 x1 y1 : Int) : Bool :=
  decide (0 ≤ x0) && decide (x0 ≤ x1) && decide (x1 < width c o) &&
  decide (0 ≤ y0) && decide (y0 ≤ y1) && decide (y1 < height c o)

/-- The entry of an eightfold table that an orientation, or CAL_SEL, selects (rules R34, R263). -/
def entry {α : Type} (v : Vector α 8) (o : BitVec 3) : α := v[o.toNat]'(o.isLt)

/-- An eightfold table with one entry replaced. -/
def setEntry {α : Type} (v : Vector α 8) (o : BitVec 3) (x : α) : Vector α 8 := v.set o.toNat x o.isLt

/-- CAL_VALID[o] (rule R36). -/
def bankValid (valid : BitVec 8) (o : Orientation) : Bool := valid.getLsbD o.toNat

/-- The integers `lo..hi`, both ends included, counting upward (rule R14). -/
def span (lo hi : Int) : List Int := (List.range (hi - lo + 1).toNat).map fun k => lo + (k : Int)

end Sys2Proof.Machine
end

