-- ==== Sys2Proof/Machine/PanelModel.lean ====
section
/-! DEFINITION. The external panel as the spec assumes it (20_memory.md rules R86 to R92): what each transport event
does to its image, address state and mode. -/

namespace Sys2Proof.Machine

/-- Every pixel becomes unknown (rule R86). -/
def Panel.forget (p : Panel) : Panel := { p with img := [] }

/-- What a command byte finds unfinished: an odd number of data bytes in mode WRITE, or fewer than four after CASET or
PASET, makes the image unknown (rule R90 cases 3 and 4). That XS, XE, YS and YE keep their old values then, also after a
short CASET or PASET list, is the model's choice (log entry 32, DESIGN CHOICE). -/
def Panel.abandon (p : Panel) : Panel :=
  match p.mode with
  | .write _ (some _) => p.forget
  | .caset _ => p.forget
  | .paset _ => p.forget
  | _ => p

/-- The write pointer REG_RAMWR starts from: (XS, YS) when the window is known and lies on the panel (rule R88);
unknown otherwise (rule R90 cases 1 and 2). -/
def Panel.windowStart (w h : Nat) (p : Panel) : Option (Nat × Nat) :=
  match p.xs, p.xe, p.ys, p.ye with
  | some xs, some xe, some ys, some ye =>
    if xs.toNat ≤ xe.toNat ∧ ys.toNat ≤ ye.toNat ∧ xe.toNat < w ∧ ye.toNat < h then
      some (xs.toNat, ys.toNat)
    else none
  | _, _, _, _ => none

/-- REG_RAMWR: mode WRITE at the window's start; an unknown start makes the image unknown (rules R88, R90). That XS, XE,
YS and YE keep what they held in that case too is the model's choice (log entry 32, DESIGN CHOICE). -/
def Panel.beginWrite (w h : Nat) (p : Panel) : Panel :=
  match p.windowStart w h with
  | some q => { p with mode := .write (some q) none }
  | none => { p.forget with mode := .write none none }

/-- A command byte (rules R86 to R88). Any byte but the three the panel model interprets makes the image unknown (rule
R86). What such a byte does to XS, XE, YS, YE and the mode is open: that the four fields stay, and that the mode is IDLE
after it, is the model's choice (log entry 31, DESIGN CHOICE). -/
def Panel.command (c : Config) (w h : Nat) (r : Byte) (p : Panel) : Panel :=
  if r = c.regCaset then { p.abandon with mode := .caset [] }
  else if r = c.regPaset then { p.abandon with mode := .paset [] }
  else if r = c.regRamwr then p.abandon.beginWrite w h
  else { p.forget with mode := .idle }

/-- The write pointer after one word (rule R89): next column, or the first column of the next row. -/
def advancePointer (xs xe : Nat) (q : Nat × Nat) : Nat × Nat :=
  if xe < q.1 + 1 then (xs, q.2 + 1) else (q.1 + 1, q.2)

/-- One whole word in mode WRITE (rule R89). Past the window's last row, or at an unknown pointer, the whole image
becomes unknown. -/
def Panel.word (hi lo : Byte) (pointer : Option (Nat × Nat)) (p : Panel) : Panel :=
  match pointer, p.xs, p.xe, p.ye with
  | some q, some xs, some xe, some ye =>
    if ye.toNat < q.2 then { p.forget with mode := .write (some q) none }
    else
      { p with
        img := writePixel p.img q.1 q.2 (hi ++ lo)
        mode := .write (some (advancePointer xs.toNat xe.toNat q)) none }
  | _, _, _, _ => { p.forget with mode := .write none none }

/-- A data byte (rules R87, R89, R92). -/
def Panel.data (b : Byte) (p : Panel) : Panel :=
  match p.mode with
  | .idle => p
  | .caset [b0, b1, b2] => { p with xs := some (b0 ++ b1), xe := some (b2 ++ b), mode := .idle }
  | .caset got => { p with mode := .caset (got ++ [b]) }
  | .paset [b0, b1, b2] => { p with ys := some (b0 ++ b1), ye := some (b2 ++ b), mode := .idle }
  | .paset got => { p with mode := .paset (got ++ [b]) }
  | .write q none => { p with mode := .write q (some b) }
  | .write q (some hi) => p.word hi b q

/-- What one transport event does to the panel of the given width and height (rules R86 to R92). -/
def Panel.after (c : Config) (w h : Nat) (e : Event) (p : Panel) : Panel :=
  match e with
  | .rst _ => p.forget
  | .ptx .command r => p.command c w h r
  | .ptx .data b => p.data b
  | .opened _ _ => p
  | .closed _ => p
  | .ttx _ => p
  | .trx _ => p
  | .wait _ => p
  | .bl _ => p
  | .pen _ => p

/-- The panel after a reset that aborted a command: image and address state unknown, mode IDLE (rule R311). -/
def Panel.aborted : Panel := Panel.reset

/-- The panel after block reset: its image is unknown (rules R54, R86); its address state and mode are unknown too
when a command was aborted (rule R311), and its own otherwise (rule R312). -/
def Panel.afterReset (busy : Bool) (p : Panel) : Panel := if busy then Panel.aborted else p.forget

end Sys2Proof.Machine
end

