-- ==== Sys2Proof/Machine/Ops.lean ====
section
/-! DEFINITION. The shared operations: sessions and events, command acceptance, the panel helpers of 40_panel.md
section 1, and the reset of registers. The block has no trap (60_exceptions.md rule R280): what stands in the place
of taking an exception is the rejection of a command word in `accept` and the STATUS bits a commit sets. -/

namespace Sys2Proof.Machine

/-! ### Sessions (rules R77, R141) -/

/-- The rate of a device's sessions (rule R77). -/
def rateOf : Device → Rate
  | .panel => .fast
  | .touch => .slow

/-- Is the device's session open? -/
def Sessions.isOpen (σ : Sessions) : Device → Bool
  | .panel => σ.panel
  | .touch => σ.touch

/-- The sessions with the device's opened. -/
def Sessions.withOpen (σ : Sessions) : Device → Sessions
  | .panel => { σ with panel := true }
  | .touch => { σ with touch := true }

/-- The sessions with the device's closed. -/
def Sessions.withClosed (σ : Sessions) : Device → Sessions
  | .panel => { σ with panel := false }
  | .touch => { σ with touch := false }

/-- SESS after an event (rule R77). -/
def Sessions.after (e : Event) (σ : Sessions) : Sessions :=
  match e with
  | .opened d _ => σ.withOpen d
  | .closed d => σ.withClosed d
  | _ => σ

/-- The CLOSE events of `finish()`, the panel's first (rule R141). -/
def closeSlots (σ : Sessions) : List Slot :=
  (if σ.panel then [.emit (.closed .panel)] else []) ++ (if σ.touch then [.emit (.closed .touch)] else [])

/-- The OPEN event of `ensure(dev)`, if one is needed (rule R141). -/
def openSlots (σ : Sessions) (d : Device) : List Slot :=
  if σ.isOpen d then [] else [.emit (.opened d (rateOf d))]

/-- The events a procedure makes when it starts with the given sessions (rules R14, R76, R80, R141). -/
def plan : Sessions → List Act → List Slot
  | _, [] => []
  | σ, .ensure d :: as => openSlots σ d ++ plan (σ.withOpen d) as
  | σ, .emit e :: as => .emit e :: plan (σ.after e) as
  | σ, .wait t :: as => if t = 0 then plan σ as else .emit (.wait t) :: plan σ as
  | σ, .receive :: as => .receive :: plan σ as
  | σ, .samplePen :: as => .samplePen :: plan σ as
  | σ, .finish :: as => closeSlots σ ++ plan Sessions.closed as

/-! ### One event (rules R45, R75, R83) -/

/-- DC and MOSI where no rule gives their level: each a free value. R79 gives DC for the whole of each `PTX` byte and
R81 gives MOSI for each `TRX` byte; R45 gives both at reset. Which levels they have at any other time, in a session of
either device or in none, is open (log entry 7, DESIGN CHOICE). -/
def Pins.loose (free : Nat) (p : Pins) : Pins :=
  { p with dc := if Config.dcIsData free then .data else .command, mosi := Config.mosiRest free }

/-- The stored pins after an event. RST and BL hold their levels (rule R83), and SCLK idles low between bytes (rule
R78). A panel byte leaves DC at its strobe (rule R79) and a received byte leaves MOSI at 0 (rule R81); that they hold
these levels from the end of the byte to the next event is the model's choice (log entry 7, DESIGN CHOICE). After every
other event, `WAIT`, `OPEN`, `CLOSE`, `RST`, `BL`, `PEN` and touch bytes, DC is a free value, and so is MOSI after every
event but `TRX` (log entry 7). -/
def Pins.after (free : Nat) (e : Event) (p : Pins) : Pins :=
  match e with
  | .rst l => { p.loose free with prst := l }
  | .opened _ _ => p.loose free
  | .closed _ => p.loose free
  | .ptx dc _ => { p.loose free with dc := dc, sclk := false }
  | .ttx _ => { p.loose free with sclk := false }
  | .trx _ => { p.loose free with sclk := false, mosi := false }
  | .wait _ => p.loose free
  | .bl v => { p.loose free with bl := v }
  | .pen _ => p.loose free

/-- `emit(e)`: the event joins the log, and the sessions, the pins and the panel take its effect (rules R13, R75). -/
def State.performEvent (e : Event) (s : State) : State :=
  { s with
    log := s.log ++ [e]
    sess := s.sess.after e
    pins := s.pins.after s.draws e
    panel := s.panel.after s.cfg (width s.cfg s.orient) (height s.cfg s.orient) e
    draws := s.draws + 1 }

/-- The touch controller's next response byte: the one State gives, or else a free value (rules R81, R97). -/
def State.nextTouchByte (s : State) : Byte :=
  match s.touchIn with
  | b :: _ => b
  | [] => Config.touchByte s.draws

/-- The next pen level: the one State gives, or else a free value (rules R82, R97). -/
def State.nextPen (s : State) : Pen :=
  match s.penIn with
  | p :: _ => p
  | [] => if Config.penIsDown s.draws then .down else .up

/-- The running command after an event: a panel command byte REG_RAMWR begins a pixel write (rule R42). -/
def Running.noteRamwr (c : Config) (e : Event) (r : Running) : Running :=
  match e with
  | .ptx .command b => if b = c.regRamwr then { r with ramwr := true } else r
  | _ => r

/-- The engine makes the event of its first slot, `todo` being the slots after it (rules R41, R76, R231, R243). A pen
level UP ends the procedure: only `finish()` is left (rule R244). -/
def State.performSlot (r : Running) (todo : List Slot) (s : State) : Slot → State
  | .emit e => (s.setEngine (.run ({ r with todo := todo }.noteRamwr s.cfg e))).performEvent e
  | .receive =>
    (State.setEngine (.run { r with todo := todo, rx := r.rx ++ [s.nextTouchByte] })
      { s with touchIn := s.touchIn.tail }).performEvent (.trx s.nextTouchByte)
  | .samplePen =>
    (State.setEngine
      (.run
        { r with todo := (match s.nextPen with | .down => todo | .up => closeSlots s.sess), pen := some s.nextPen })
      { s with penIn := s.penIn.tail }).performEvent (.pen s.nextPen)

/-! ### Command acceptance (rules R38, R39) -/

/-- The argument snapshot and the command word latch (rules R38, R39). -/
def State.latch (i : Instr) (s : State) : State := { s with cmdl := encode i, argl := s.arg }

/-- The engine starts a command with the events of its procedure still to make (rules R38, R41). -/
def State.start (i : Instr) (acts : List Act) (s : State) : State :=
  s.setEngine (.run { cmd := i, todo := plan s.sess acts, rx := [], pen := none, ramwr := false })

/-- The legal dot sizes (rule R115). -/
def sizeLegal (sz : Nat) : Bool := decide (1 ≤ sz) && decide (sz ≤ 8)

/-- Acceptance of a decoded command (rule R38): BUSY, then the field check, then READY, then the latches and the
start. The procedure reads its operands from the latches (rule R39). -/
def accept (i : Instr) (legal needsReady : Bool) (procedure : State → List Act) (s : State) :
    Host.Outcome State Fault Refusal :=
  if s.busy then .next s.overrun
  else if !legal then .next s.rejectEarg
  else if needsReady && !s.status.ready then .next s.rejectNrdy
  else .next ((s.latch i).start i (procedure (s.latch i)))

/-! ### Panel helpers (rules R141 to R146) -/

/-- `P_CMD(r)` (rule R141). -/
def pCmd (r : Byte) : List Act := [.ensure .panel, .emit (.ptx .command r)]

/-- `P_DATA(b)` (rule R142). -/
def pData (b : Byte) : List Act := [.ensure .panel, .emit (.ptx .data b)]

/-- `P_WORD(w)`: the high byte first (rule R143). -/
def pWord (w : Half) : List Act := pData (w.extractLsb' 8 8) ++ pData (w.extractLsb' 0 8)

/-- A coordinate as the 16-bit word sent for it (rule R143). -/
def coord (x : Int) : Half := BitVec.ofInt 16 x

/-- `P_WINDOW(x0, y0, x1, y1)` (rule R144). -/
def pWindow (c : Config) (x0 y0 x1 y1 : Int) : List Act :=
  pCmd c.regCaset ++ pWord (coord x0) ++ pWord (coord x1) ++
  pCmd c.regPaset ++ pWord (coord y0) ++ pWord (coord y1) ++
  pCmd c.regRamwr

/-- `PIXEL(x, y, c)` (rule R145). -/
def pixel (c : Config) (o : Orientation) (x y : Int) (colour : Half) : List Act :=
  if inBounds c o x y then pWindow c x y x y ++ pWord colour else []

/-- `repeat n times: P_WORD(w)`. -/
def pWords (n : Nat) (w : Half) : List Act := (List.replicate n (pWord w)).flatten

/-- `FILL(x0, y0, x1, y1, c)` (rule R146). -/
def fill (c : Config) (o : Orientation) (x0 y0 x1 y1 : Int) (colour : Half) : List Act :=
  if winOK c o x0 y0 x1 y1 then
    pWindow c x0 y0 x1 y1 ++ pWords ((x1 - x0 + 1) * (y1 - y0 + 1)).toNat colour
  else []

/-- One drawing step: every pixel a command writes goes through PIXEL or FILL (41_raster.md, opening). -/
inductive Draw where
  | pixel (x y : Int) (colour : Half)
  | fill (x0 y0 x1 y1 : Int) (colour : Half)
deriving DecidableEq, Repr

/-- What a drawing step sends (rules R145, R146). -/
def Draw.acts (c : Config) (o : Orientation) : Draw → List Act
  | .pixel x y colour => Sys2Proof.Machine.pixel c o x y colour
  | .fill x0 y0 x1 y1 colour => Sys2Proof.Machine.fill c o x0 y0 x1 y1 colour

/-- What a list of drawing steps sends, in order. -/
def drawActs (c : Config) (o : Orientation) (ds : List Draw) : List Act := ds.flatMap (Draw.acts c o)

/-- One register write of a parameter table: the address, then the data bytes in order (rules R147, R148). -/
def registerWrite (reg : Byte) (data : List Byte) : List Act := pCmd reg ++ data.flatMap pData

/-- `ORIENT_REGS[o]`, first to last (rules R147, R150). -/
def orientWrites (c : Config) (o : Orientation) : List Act :=
  (entry c.orientRegs o).flatMap fun w => registerWrite w.reg w.data

/-! ### Commit helpers (rules R40, R42) -/

/-- WINOPEN' of a command that may have begun a pixel write (rules R42, R144). -/
def State.commitWindow (r : Running) (s : State) : State :=
  { s with status := { s.status with winopen := s.status.winopen || r.ramwr } }

/-- ORIENT' of BEGIN and SET_ORIENT: the orientation changes, the panel is dirty and no stream may continue (rules
R147, R150), and the panel's image is unknown until it is written again (93_implementation_defined.md I4). -/
def State.commitOrient (o : Orientation) (s : State) : State :=
  { s with
    orient := o
    status := { s.status with dirty := true, winopen := false }
    panel := s.panel.forget }

/-! ### Block reset (rules R310, R311) -/

/-- Block reset: every piece of block state at its reset value (rule R54); a running command ends without another
event. The log, the panel and what is outside the block stay, but for the panel's image and address state. -/
def State.blockReset (s : State) : State :=
  { State.reset with
    panel := s.panel.afterReset s.busy
    log := s.log
    reads := s.reads
    cfg := s.cfg
    inputs := s.inputs
    touchIn := s.touchIn
    penIn := s.penIn
    draws := s.draws }

end Sys2Proof.Machine
end

