-- ==== Sys2Proof/Machine/PanelCommands.lean ====
section
/-! DEFINITION. The panel controller commands (40_panel.md): for each, its procedure, its acceptance (`exec…`) and
what it commits at completion (`commit…`, 10_state.md rule R40). -/

namespace Sys2Proof.Machine

/-! ### NOP (rule R140) -/

/-- NOP's procedure: `finish()` alone. -/
def nopActs (_ : State) : List Act := [.finish]

/-- NOP (rule R140): legal before BEGIN. -/
def execNop (s : State) : Host.Outcome State Fault Refusal := accept .nop true false nopActs s

/-- NOP commits nothing but DONE. -/
def commitNop (_ : Running) (s : State) : State := s

/-! ### BEGIN (rules R147 to R149) -/

/-- The reset pulse of BEGIN (rule R147). -/
def resetPulse (c : Config) : List Act :=
  [.emit (.rst .released), .wait c.tRstPre, .emit (.rst .asserted), .wait c.tRstHold,
   .emit (.rst .released), .wait c.tRstPost]

/-- INIT_TABLE, sent exactly as listed (rule R148). -/
def initWrites (c : Config) : List Act :=
  c.initTable.flatMap fun e => registerWrite e.reg e.data ++ [.wait e.postWait]

/-- BEGIN's procedure (rule R147); the backlight comes after `finish()` (rule R149). -/
def beginActs (o : Orientation) (bl : Byte) (s : State) : List Act :=
  resetPulse s.cfg ++ initWrites s.cfg ++ orientWrites s.cfg o ++ [.wait s.cfg.tOrientSettle] ++
  pCmd s.cfg.regSlpout ++ [.wait s.cfg.tSlpout] ++ pCmd s.cfg.regDispon ++ [.wait s.cfg.tDispon] ++
  [.finish, .emit (.bl bl)]

/-- BEGIN (rule R147): needs no READY. -/
def execBegin (o : Orientation) (bl : Byte) (s : State) : Host.Outcome State Fault Refusal :=
  accept (.beginPanel o bl) true false (beginActs o bl) s

/-- BEGIN's commit (rule R147): ORIENT, READY, DIRTY and WINOPEN. -/
def commitBegin (o : Orientation) (_ : Running) (s : State) : State :=
  { s.commitOrient o with status := { (s.commitOrient o).status with ready := true } }

/-! ### SET_ORIENT (rule R150) -/

/-- SET_ORIENT's procedure. -/
def setOrientActs (o : Orientation) (s : State) : List Act := orientWrites s.cfg o ++ [.finish]

/-- SET_ORIENT (rule R150). -/
def execSetOrient (o : Orientation) (s : State) : Host.Outcome State Fault Refusal :=
  accept (.setOrient o) true true (setOrientActs o) s

/-- SET_ORIENT's commit (rule R150): ORIENT, DIRTY and WINOPEN. -/
def commitSetOrient (o : Orientation) (_ : Running) (s : State) : State := s.commitOrient o

/-! ### SET_WINDOW (rules R153, R154) -/

/-- SET_WINDOW's procedure: a window that is not on the panel is dropped whole. -/
def setWindowActs (s : State) : List Act :=
  (if winOK s.cfg s.orient s.argl.x0 s.argl.y0 s.argl.x1 s.argl.y1 then
    pWindow s.cfg s.argl.x0 s.argl.y0 s.argl.x1 s.argl.y1
   else []) ++ [.finish]

/-- SET_WINDOW (rule R153). -/
def execSetWindow (s : State) : Host.Outcome State Fault Refusal := accept .setWindow true true setWindowActs s

/-- SET_WINDOW's commit: WINOPEN when the window was sent. -/
def commitSetWindow (r : Running) (s : State) : State := s.commitWindow r

/-! ### STREAM (rule R156) -/

/-- STREAM's procedure: N words of FG into the open window, or nothing but `finish()` when none is open. -/
def streamActs (s : State) : List Act :=
  (if s.status.winopen then pWords s.argl.count s.argl.fg else []) ++ [.finish]

/-- STREAM (rule R156). -/
def execStream (s : State) : Host.Outcome State Fault Refusal := accept .stream true true streamActs s

/-- STREAM's commit: `raise ERR(ESEQ)` when no window was open (rules R156, R282). WINOPEN does not change while a
command runs (rule R40), so it is what the procedure saw. -/
def commitStream (_ : Running) (s : State) : State :=
  if s.status.winopen then s else { s with status := { s.status with eseq := true } }

/-! ### SET_PIXEL (rule R159) -/

/-- What SET_PIXEL draws. -/
def setPixelDraws (s : State) : List Draw := [.pixel s.argl.x0 s.argl.y0 s.argl.fg]

/-- SET_PIXEL's procedure. -/
def setPixelActs (s : State) : List Act := drawActs s.cfg s.orient (setPixelDraws s) ++ [.finish]

/-- SET_PIXEL (rule R159). -/
def execSetPixel (s : State) : Host.Outcome State Fault Refusal := accept .setPixel true true setPixelActs s

/-- SET_PIXEL's commit: WINOPEN when the pixel was in bounds. -/
def commitSetPixel (r : Running) (s : State) : State := s.commitWindow r

/-! ### FILL_AREA (rule R162) -/

/-- What FILL_AREA draws. -/
def fillAreaDraws (s : State) : List Draw :=
  [.fill s.argl.x0 s.argl.y0 s.argl.x1 s.argl.y1 s.argl.fg]

/-- FILL_AREA's procedure. -/
def fillAreaActs (s : State) : List Act := drawActs s.cfg s.orient (fillAreaDraws s) ++ [.finish]

/-- FILL_AREA (rule R162). -/
def execFillArea (s : State) : Host.Outcome State Fault Refusal := accept .fillArea true true fillAreaActs s

/-- FILL_AREA's commit: WINOPEN when the area was sent. -/
def commitFillArea (r : Running) (s : State) : State := s.commitWindow r

/-! ### CLEAR (rule R165) -/

/-- What CLEAR draws: the whole panel of the current orientation. -/
def clearDraws (s : State) : List Draw :=
  [.fill 0 0 ((width s.cfg s.orient : Int) - 1) ((height s.cfg s.orient : Int) - 1) s.argl.fg]

/-- CLEAR's procedure. -/
def clearActs (s : State) : List Act := drawActs s.cfg s.orient (clearDraws s) ++ [.finish]

/-- CLEAR (rule R165). -/
def execClear (s : State) : Host.Outcome State Fault Refusal := accept .clear true true clearActs s

/-- CLEAR's commit: DIRTY to 0, and WINOPEN. -/
def commitClear (r : Running) (s : State) : State :=
  { s.commitWindow r with status := { (s.commitWindow r).status with dirty := false } }

end Sys2Proof.Machine
end

