-- ==== Sys2Proof/Machine/Raster.lean ====
section
/-! DEFINITION. The rasterizer (41_raster.md): the stamp, the line with its banded path and its Bresenham path, the
dotted pattern, the rectangle and the circle, and their four commands. Arithmetic is on unbounded integers (rule
R11). -/

namespace Sys2Proof.Machine

/-! ### Point stamp (rules R181, R182) -/

/-- The first offset of a stamp's footprint on each axis (rule R181). -/
def stampLow (size : Int) : DotStyle → Int
  | .anchored => 0
  | .fillAround => -(size - 1)

/-- The pixels of a stamp's footprint, row by row, before any bounds check (rules R181, R182). -/
def footprint (x y size : Int) (ds : DotStyle) : List (Int × Int) :=
  (span (stampLow size ds) (size - 1)).flatMap fun dy =>
    (span (stampLow size ds) (size - 1)).map fun dx => (x + dx, y + dy)

/-- `STAMP(x, y, c, size, ds)` (rule R182). -/
def stamp (c : Config) (o : Orientation) (x y : Int) (colour : Half) (size : Int) (ds : DotStyle) : List Draw :=
  if inBounds c o x y then (footprint x y size ds).map fun p => .pixel p.1 p.2 colour else []

/-! ### Lines (rules R183 to R191) -/

/-- The band of a horizontal or vertical line before clipping, as x0, y0, x1, y1 (rule R185). -/
def bandRect (x0 y0 x1 y1 size : Int) : Int × Int × Int × Int :=
  if y0 = y1 then (min x0 x1, min y0 y1, max x0 x1, min y0 y1 + size - 1)
  else (min x0 x1, min y0 y1, min x0 x1 + size - 1, max y0 y1)

/-- A band clipped to the panel: only the far sides need it (rule R185). -/
def bandClip (c : Config) (o : Orientation) (r : Int × Int × Int × Int) : Int × Int × Int × Int :=
  (r.1, r.2.1, min r.2.2.1 ((width c o : Int) - 1), min r.2.2.2 ((height c o : Int) - 1))

/-- `BAND(x0, y0, x1, y1, c, size)`: one FILL of the clipped band, if anything is left of it (rule R185). -/
def band (c : Config) (o : Orientation) (x0 y0 x1 y1 : Int) (colour : Half) (size : Int) : List Draw :=
  match bandClip c o (bandRect x0 y0 x1 y1 size) with
  | (rx0, ry0, cx1, cy1) => if rx0 ≤ cx1 ∧ ry0 ≤ cy1 then [.fill rx0 ry0 cx1 cy1 colour] else []

/-- The loop of BRES (rule R186): the stamp anchors from (x, y) on. `fuel` bounds the iterations; every iteration
that goes on moves at least one axis toward the endpoint. -/
def bresLoop (x1 y1 dx dy sx sy : Int) : Nat → Int → Int → Int → List (Int × Int)
  | 0, _, _, _ => []
  | fuel + 1, x, y, err =>
    (x, y) ::
      (if x = x1 ∧ y = y1 then []
       else
        bresLoop x1 y1 dx dy sx sy fuel
          (if dy ≤ 2 * err then x + sx else x)
          (if 2 * err ≤ dx then y + sy else y)
          (err + (if dy ≤ 2 * err then dy else 0) + (if 2 * err ≤ dx then dx else 0)))

/-- The stamp anchors of `BRES(x0, y0, x1, y1, …)`, in order (rule R186). -/
def bresPoints (x0 y0 x1 y1 : Int) : List (Int × Int) :=
  let dx := |x1 - x0|
  let dy := -|y1 - y0|
  bresLoop x1 y1 dx dy (if x0 < x1 then 1 else -1) (if y0 < y1 then 1 else -1)
    ((dx - dy).toNat + 1) x0 y0 (dx + dy)

/-- Is the stamp that DOTCNT now counts drawn in the background colour (rules R186, R190)? -/
def isGap (ls : LineStyle) (counted : Nat) : Bool :=
  match ls with
  | .solid => false
  | .dotted => counted == 3

/-- DOTCNT after one stamp, from its value before (rules R186, R190). -/
def dotNext (ls : LineStyle) (cnt : Nat) : Nat := if isGap ls (cnt + 1) then 0 else cnt + 1

/-- The stamps of a line with their colours: `true` marks the background (rule R190). -/
def dotPattern (ls : LineStyle) : Nat → List (Int × Int) → List ((Int × Int) × Bool)
  | _, [] => []
  | cnt, p :: ps => (p, isGap ls (cnt + 1)) :: dotPattern ls (dotNext ls cnt) ps

/-- `BRES(x0, y0, x1, y1, fg, bg, size, ls, ds)` (rule R186). -/
def bres (c : Config) (o : Orientation) (x0 y0 x1 y1 : Int) (fg bg : Half) (size : Int) (ls : LineStyle)
    (ds : DotStyle) : List Draw :=
  (dotPattern ls 0 (bresPoints x0 y0 x1 y1)).flatMap fun q =>
    stamp c o q.1.1 q.1.2 (if q.2 then bg else fg) size ds

/-- Does a line take the fast path (rule R183)? -/
def takesBand (x0 y0 x1 y1 : Int) (ls : LineStyle) : Bool :=
  ls == .solid && Bool.xor (decide (x0 = x1)) (decide (y0 = y1))

/-- `LINE(x0, y0, x1, y1, fg, bg, size, ls, ds)` (rule R183). -/
def line (c : Config) (o : Orientation) (x0 y0 x1 y1 : Int) (fg bg : Half) (size : Int) (ls : LineStyle)
    (ds : DotStyle) : List Draw :=
  if takesBand x0 y0 x1 y1 ls then band c o x0 y0 x1 y1 fg size
  else bres c o x0 y0 x1 y1 fg bg size ls ds

/-- DOTCNT after one LINE: 0 from its start on the fast path, else what BRES leaves (rules R43, R186). -/
def lineDotcnt (x0 y0 x1 y1 : Int) (ls : LineStyle) : Nat :=
  if takesBand x0 y0 x1 y1 ls then 0 else (bresPoints x0 y0 x1 y1).foldl (fun cnt _ => dotNext ls cnt) 0

/-- The endpoints DRAW_LINE passes to LINE: as given, or with each axis put in order on its own when LINE_AXIS_SWAP
is true (rules R184, R203). -/
def lineEnds (swap : Bool) (a : Args) : Int × Int × Int × Int :=
  if swap then
    (min (a.x0 : Int) a.x1, min (a.y0 : Int) a.y1, max (a.x0 : Int) a.x1, max (a.y0 : Int) a.y1)
  else (a.x0, a.y0, a.x1, a.y1)

/-! ### Rectangles (rules R196 to R198) -/

/-- The normalised corners xa, ya, xb, yb (rule R198). -/
def rectCorners (a : Args) : Int × Int × Int × Int :=
  (min (a.x0 : Int) a.x1, min (a.y0 : Int) a.y1, max (a.x0 : Int) a.x1, max (a.y0 : Int) a.y1)

/-- The four edges of a stroked rectangle: top, left, right, bottom, each extended by `size` (rule R196). -/
def rectEdges (xa ya xb yb size : Int) : List (Int × Int × Int × Int) :=
  [(xa, ya, xb + size, ya), (xa, ya, xa, yb + size), (xb, ya, xb, yb + size), (xa, yb, xb + size, yb)]

/-- A stroked rectangle: four LINE calls (rule R196). -/
def strokedRect (c : Config) (o : Orientation) (xa ya xb yb : Int) (fg bg : Half) (size : Int)
    (ls : LineStyle) (ds : DotStyle) : List Draw :=
  (rectEdges xa ya xb yb size).flatMap fun e => line c o e.1 e.2.1 e.2.2.1 e.2.2.2 fg bg size ls ds

/-! ### Circles (rule R199) -/

/-- The eight symmetric points of one step, in the order of rule R199's stroked arm. -/
def octants (xc yc x y : Int) : List (Int × Int) :=
  [(xc + x, yc + y), (xc - x, yc + y), (xc - y, yc + x), (xc - y, yc - x),
   (xc - x, yc - y), (xc + x, yc - y), (xc + y, yc - x), (xc + y, yc + x)]

/-- The steps (x, y) of CIRC's loop (rule R199). `fuel` bounds the iterations: x grows by one in each. -/
def circleLoop : Nat → Int → Int → Int → List (Int × Int)
  | 0, _, _, _ => []
  | fuel + 1, x, y, d =>
    if x ≤ y then
      (x, y) ::
        circleLoop fuel (x + 1) (if d < 0 then y else y - 1)
          (if d < 0 then d + 4 * x + 6 else d + 4 * (x - y) + 10)
    else []

/-- The steps of a circle of radius r (rule R199). -/
def circleSteps (r : Nat) : List (Int × Int) := circleLoop (r + 1) 0 r (3 - 2 * (r : Int))

/-- The points of a stroked circle, in order (rule R199). -/
def strokedPoints (xc yc : Int) (r : Nat) : List (Int × Int) :=
  (circleSteps r).flatMap fun q => octants xc yc q.1 q.2

/-- The pixels of a filled circle, in order: for each step, eight per value of s in x..y (rule R199). -/
def filledPoints (xc yc : Int) (r : Nat) : List (Int × Int) :=
  (circleSteps r).flatMap fun q => (span q.1 q.2).flatMap fun t => octants xc yc q.1 t

/-- `CIRC(xc, yc, r, c, size, ds, fl)` (rule R199): stamps when stroked, single pixels when filled. -/
def circ (c : Config) (o : Orientation) (xc yc : Int) (r : Nat) (colour : Half) (size : Int) (ds : DotStyle) :
    FillStyle → List Draw
  | .stroked => (strokedPoints xc yc r).flatMap fun p => stamp c o p.1 p.2 colour size ds
  | .filled => (filledPoints xc yc r).map fun p => .pixel p.1 p.2 colour

/-! ### DRAW_POINT (rules R200, R201) -/

/-- What DRAW_POINT draws. -/
def drawPointDraws (sz : Nat) (ds : DotStyle) (s : State) : List Draw :=
  stamp s.cfg s.orient s.argl.x0 s.argl.y0 s.argl.fg sz ds

/-- DRAW_POINT's procedure. -/
def drawPointActs (sz : Nat) (ds : DotStyle) (s : State) : List Act :=
  drawActs s.cfg s.orient (drawPointDraws sz ds s) ++ [.finish]

/-- DRAW_POINT (rule R200). -/
def execDrawPoint (sz : Nat) (ds : DotStyle) (s : State) : Host.Outcome State Fault Refusal :=
  accept (.drawPoint sz ds) (sizeLegal sz) true (drawPointActs sz ds) s

/-- DRAW_POINT's commit: WINOPEN when any pixel was written (rule R180). -/
def commitDrawPoint (r : Running) (s : State) : State := s.commitWindow r

/-! ### DRAW_LINE (rules R203, R204) -/

/-- What DRAW_LINE draws. -/
def drawLineDraws (sz : Nat) (ls : LineStyle) (ds : DotStyle) (s : State) : List Draw :=
  match lineEnds s.cfg.lineAxisSwap s.argl with
  | (a0, b0, a1, b1) => line s.cfg s.orient a0 b0 a1 b1 s.argl.fg s.argl.bg sz ls ds

/-- DRAW_LINE's procedure. -/
def drawLineActs (sz : Nat) (ls : LineStyle) (ds : DotStyle) (s : State) : List Act :=
  drawActs s.cfg s.orient (drawLineDraws sz ls ds s) ++ [.finish]

/-- DRAW_LINE (rule R203). -/
def execDrawLine (sz : Nat) (ls : LineStyle) (ds : DotStyle) (s : State) :
    Host.Outcome State Fault Refusal :=
  accept (.drawLine sz ls ds) (sizeLegal sz) true (drawLineActs sz ls ds) s

/-- DRAW_LINE's commit: WINOPEN when any pixel was written, and what DOTCNT is left at (rules R43, R180). -/
def commitDrawLine (ls : LineStyle) (r : Running) (s : State) : State :=
  match lineEnds s.cfg.lineAxisSwap s.argl with
  | (a0, b0, a1, b1) => { s.commitWindow r with dotcnt := lineDotcnt a0 b0 a1 b1 ls }

/-! ### DRAW_RECT (rules R206, R207) -/

/-- What DRAW_RECT draws: one FILL, never clipped, or four lines (rules R196, R197). -/
def drawRectDraws (sz : Nat) (ls : LineStyle) (fl : FillStyle) (ds : DotStyle) (s : State) : List Draw :=
  match rectCorners s.argl, fl with
  | (xa, ya, xb, yb), .filled => [.fill xa ya xb yb s.argl.fg]
  | (xa, ya, xb, yb), .stroked => strokedRect s.cfg s.orient xa ya xb yb s.argl.fg s.argl.bg sz ls ds

/-- DRAW_RECT's procedure. -/
def drawRectActs (sz : Nat) (ls : LineStyle) (fl : FillStyle) (ds : DotStyle) (s : State) : List Act :=
  drawActs s.cfg s.orient (drawRectDraws sz ls fl ds s) ++ [.finish]

/-- DRAW_RECT (rule R206). -/
def execDrawRect (sz : Nat) (ls : LineStyle) (fl : FillStyle) (ds : DotStyle) (s : State) :
    Host.Outcome State Fault Refusal :=
  accept (.drawRect sz ls fl ds) (sizeLegal sz) true (drawRectActs sz ls fl ds) s

/-- DOTCNT after DRAW_RECT: what its last edge, the bottom one, leaves; a filled rectangle draws no line (rules R43,
R196). -/
def rectDotcnt (sz : Nat) (ls : LineStyle) (fl : FillStyle) (a : Args) (before : Nat) : Nat :=
  match rectCorners a, fl with
  | _, .filled => before
  | (xa, _, xb, yb), .stroked => lineDotcnt xa yb (xb + (sz : Int)) yb ls

/-- DRAW_RECT's commit: WINOPEN when any pixel was written, and what DOTCNT is left at (rules R43, R180). -/
def commitDrawRect (sz : Nat) (ls : LineStyle) (fl : FillStyle) (r : Running) (s : State) : State :=
  { s.commitWindow r with dotcnt := rectDotcnt sz ls fl s.argl s.dotcnt }

/-! ### DRAW_CIRCLE (rules R210, R211) -/

/-- What DRAW_CIRCLE draws. -/
def drawCircleDraws (sz : Nat) (fl : FillStyle) (ds : DotStyle) (s : State) : List Draw :=
  circ s.cfg s.orient s.argl.x0 s.argl.y0 s.argl.radius s.argl.fg sz ds fl

/-- DRAW_CIRCLE's procedure. -/
def drawCircleActs (sz : Nat) (fl : FillStyle) (ds : DotStyle) (s : State) : List Act :=
  drawActs s.cfg s.orient (drawCircleDraws sz fl ds s) ++ [.finish]

/-- DRAW_CIRCLE (rule R210). -/
def execDrawCircle (sz : Nat) (fl : FillStyle) (ds : DotStyle) (s : State) :
    Host.Outcome State Fault Refusal :=
  accept (.drawCircle sz fl ds) (sizeLegal sz) true (drawCircleActs sz fl ds) s

/-- DRAW_CIRCLE's commit: WINOPEN when any pixel was written (rule R180). -/
def commitDrawCircle (r : Running) (s : State) : State := s.commitWindow r

end Sys2Proof.Machine
end

