-- ==== Sys2Proof/Machine/Binary32.lean ====
section
/-! DEFINITION. The binary32 arithmetic of the transformer (43_map.md rules R266 to R268): a value is decoded, the
exact result is formed on integers, and rounded once, to nearest with ties to even. No result of a transform is kept
as a bit pattern, so a NaN has neither payload nor sign here (rule R267). -/

namespace Sys2Proof.Machine

/-- A binary32 value: a NaN, an infinity, or `(-1)^neg · m · 2^e`. -/
inductive F32 where
  | nan
  | inf (neg : Bool)
  | fin (neg : Bool) (m : Nat) (e : Int)
deriving DecidableEq, Repr

/-- The value of a binary32 bit pattern; subnormals are kept (rules R35, R267). -/
def F32.ofBits (w : Word) : F32 :=
  let neg := w.getLsbD 31
  let ex := (w.extractLsb' 23 8).toNat
  let fr := (w.extractLsb' 0 23).toNat
  if ex = 255 then (if fr = 0 then .inf neg else .nan)
  else if ex = 0 then .fin neg fr (-149)
  else .fin neg (2 ^ 23 + fr) ((ex : Int) - 150)

/-- `m / 2^k` for k ≥ 1, rounded to nearest, ties to even. -/
def roundShift (m k : Nat) : Nat :=
  let q := m / 2 ^ k
  let rest := m % 2 ^ k
  let half := 2 ^ (k - 1)
  if half < rest ∨ (rest = half ∧ q % 2 = 1) then q + 1 else q

/-- The exponent of the last place of a binary32 result whose exact value is `m · 2^e`. -/
def lastPlace (m : Nat) (e : Int) : Int := max (e + (Nat.log2 m : Int) + 1 - 24) (-149)

/-- `m · 2^e` counted in units of `2^q`, rounded to nearest, ties to even. -/
def roundTo (q : Int) (m : Nat) (e : Int) : Nat :=
  if q ≤ e then m * 2 ^ (e - q).toNat else roundShift m (q - e).toNat

/-- The binary32 value `n · 2^q`, n at most 2^24; an overflow gives an infinity (rule R267). -/
def packed (neg : Bool) (n : Nat) (q : Int) : F32 :=
  let n' := if n = 2 ^ 24 then 2 ^ 23 else n
  let q' := if n = 2 ^ 24 then q + 1 else q
  if 104 < q' then .inf neg else .fin neg n' q'

/-- The binary32 value nearest to `(-1)^neg · m · 2^e` (rule R267). -/
def roundF32 (neg : Bool) (m : Nat) (e : Int) : F32 :=
  if m = 0 then .fin neg 0 (-149) else packed neg (roundTo (lastPlace m e) m e) (lastPlace m e)

/-- `f32(n)` of a natural number below 2^24, exact (rule R266). -/
def f32 (n : Nat) : F32 := roundF32 false n 0

/-- `-v`. -/
def f32neg : F32 → F32
  | .nan => .nan
  | .inf neg => .inf (!neg)
  | .fin neg m e => .fin (!neg) m e

/-- `f32mul` (rule R267). -/
def f32mul : F32 → F32 → F32
  | .nan, _ => .nan
  | _, .nan => .nan
  | .inf a, .inf b => .inf (Bool.xor a b)
  | .inf a, .fin b m _ => if m = 0 then .nan else .inf (Bool.xor a b)
  | .fin a m _, .inf b => if m = 0 then .nan else .inf (Bool.xor a b)
  | .fin a m e, .fin b n f => roundF32 (Bool.xor a b) (m * n) (e + f)

/-- `(-1)^neg · m · 2^e` in units of `2^g`, for g at most e. -/
def scaled (neg : Bool) (m : Nat) (e g : Int) : Int :=
  (if neg then -1 else 1) * ((m * 2 ^ (e - g).toNat : Nat) : Int)

/-- `f32add` (rule R267). An exact sum of zero is +0 unless both terms are negative. -/
def f32add : F32 → F32 → F32
  | .nan, _ => .nan
  | _, .nan => .nan
  | .inf a, .inf b => if a = b then .inf a else .nan
  | .inf a, .fin _ _ _ => .inf a
  | .fin _ _ _, .inf b => .inf b
  | .fin a m e, .fin b n f =>
    let g := min e f
    let sum := scaled a m e g + scaled b n f g
    if sum = 0 then .fin (a && b) 0 (-149) else roundF32 (decide (sum < 0)) sum.natAbs g

/-- `f32sub` (rule R267). -/
def f32sub (x y : F32) : F32 := f32add x (f32neg y)

/-- The magnitude `m · 2^e` with its fraction discarded. -/
def truncMagnitude (m : Nat) (e : Int) : Nat :=
  if 0 ≤ e then m * 2 ^ e.toNat else m / 2 ^ (-e).toNat

/-- Does `m · 2^e` exceed the whole number `n`? -/
def exceeds (m : Nat) (e : Int) (n : Nat) : Bool :=
  if 0 ≤ e then decide (n < m * 2 ^ e.toNat) else decide (n * 2 ^ (-e).toNat < m)

/-- `trunc_s32(v)`: toward zero, or `none` for UNREPRESENTABLE: a NaN, an infinity, `v >= 2^31` or `v < -2^31` (rule
R268). -/
def truncS32 : F32 → Option Word
  | .nan => none
  | .inf _ => none
  | .fin false m e =>
    if 2 ^ 31 ≤ truncMagnitude m e then none else some (BitVec.ofNat 32 (truncMagnitude m e))
  | .fin true m e =>
    if exceeds m e (2 ^ 31) then none else some (BitVec.ofInt 32 (-(truncMagnitude m e : Int)))

end Sys2Proof.Machine
end

