-- ==== Sys2Proof/Machine/Transform.lean ====
section
/-! DEFINITION. The affine coordinate transformer (43_map.md): the refusal check, the two screen formulas, XFORM and
the command MAP. -/

namespace Sys2Proof.Machine

/-- What XFORM answers (rule R269). -/
inductive XformResult where
  | ok (sx sy : Word)
  | unsupported
  | unrepresentable
deriving DecidableEq, Repr

/-- One screen formula (rule R265): `fac·raw + off`, or `dim - fac·raw - off` grouped from the left; every operation
rounds on its own. -/
def screenValue (neg : Bool) (fac off : Word) (dim raw : Nat) : F32 :=
  if neg then
    f32sub (f32sub (f32 dim) (f32mul (F32.ofBits fac) (f32 raw))) (F32.ofBits off)
  else f32add (f32mul (F32.ofBits fac) (f32 raw)) (F32.ofBits off)

/-- The orientation's transform is refused (rule R263). -/
def xformRefused (row : OrientRow) (valid : Bool) : Bool := !row.supported || !valid

/-- The two axes together: both truncated, or neither (rules R264, R265, R268, R269). -/
def xformValue (row : OrientRow) (bank : CalBank) (w h rx ry : Nat) : XformResult :=
  let a := if row.swap then ry else rx
  let b := if row.swap then rx else ry
  match truncS32 (screenValue row.negX bank.xfac bank.xoff w a),
        truncS32 (screenValue row.negY bank.yfac bank.yoff h b) with
  | some ix, some iy => .ok ix iy
  | _, _ => .unrepresentable

/-- `XFORM(rx, ry)`: always the bank of the current orientation (rules R263, R269). -/
def State.xform (rx ry : Nat) (s : State) : XformResult :=
  if xformRefused (entry s.cfg.orientMap s.orient) (bankValid s.calValid s.orient) then .unsupported
  else
    xformValue (entry s.cfg.orientMap s.orient) (entry s.cal s.orient) (width s.cfg s.orient)
      (height s.cfg s.orient) rx ry

/-- What a command commits of a transform's result: TSX and TSY together, or UNSUP, or MAPERR (rules R244, R270,
R273). -/
def State.commitXform (res : XformResult) (s : State) : State :=
  match res with
  | .ok sx sy => { s with tsx := sx, tsy := sy }
  | .unsupported => { s with status := { s.status with unsup := true } }
  | .unrepresentable => { s with status := { s.status with maperr := true } }

/-! ### MAP (rules R270, R271) -/

/-- MAP's procedure has no transport side (rule R260). -/
def mapActs (_ : State) : List Act := [.finish]

/-- MAP (rule R270): needs no READY. -/
def execMap (s : State) : Host.Outcome State Fault Refusal := accept .map true false mapActs s

/-- MAP's commit: the transform of the raw sample (X0, Y0) (rule R270). -/
def commitMap (_ : Running) (s : State) : State := s.commitXform (s.xform s.argl.x0 s.argl.y0)

end Sys2Proof.Machine
end

