-- ==== Sys2Proof/Machine/Touch.lean ====
section
/-! DEFINITION. The touch ADC sequencer (42_touch.md): raw acquisition, the outlier-rejecting average, the dual-read
agreement, the scan, and their four commands. -/

namespace Sys2Proof.Machine

/-! ### Acquisition (rules R231 to R233, R235) -/

/-- One axis of `RAWREAD()`: the command byte, the settle wait and the two response bytes (rule R231). -/
def axisRead (c : Config) (cmd : Byte) : List Act :=
  [.emit (.ttx cmd), .wait c.tTsettle, .receive, .receive]

/-- `RAWREAD()`: X first, then Y (rule R231). -/
def rawRead (c : Config) : List Act :=
  .ensure .touch :: (axisRead c c.touchCmdX ++ axisRead c c.touchCmdY)

/-- The transport side of `AVG()` over `n` samples: `WAIT(T_INTER)` between samples, never after the last (rule
R233). -/
def avgActs (c : Config) : Nat → List Act
  | 0 => []
  | 1 => rawRead c
  | n + 2 => rawRead c ++ [.wait c.tInter] ++ avgActs c (n + 1)

/-- The transport side of `TWICE()`: two averages back to back (rule R235). -/
def twiceActs (c : Config) : List Act := avgActs c c.touchN ++ avgActs c c.touchN

/-- A raw code: the 16-bit response shifted right by 3, all 13 bits kept (rules R231, R232). -/
def rawCode (hi lo : Byte) : Nat := ((hi ++ lo : Half) >>> 3).toNat

/-- The raw samples (x, y) of the response bytes, four bytes each (rule R231). -/
def samples : List Byte → List (Nat × Nat)
  | xh :: xl :: yh :: yl :: rest => (rawCode xh xl, rawCode yh yl) :: samples rest
  | _ => []

/-- The least of a list of codes. -/
def least : List Nat → Nat
  | [] => 0
  | [v] => v
  | v :: vs => min v (least vs)

/-- The greatest of a list of codes. -/
def greatest (vs : List Nat) : Nat := vs.foldr max 0

/-- One axis of `AVG()`: the sum less one least and one greatest code, divided by N - 2, rounding down (rule R233). -/
def trimmedMean (n : Nat) (vs : List Nat) : Nat := (vs.sum - least vs - greatest vs) / (n - 2)

/-- `AVG()` of N samples (rule R233). -/
def average (n : Nat) (xys : List (Nat × Nat)) : Nat × Nat :=
  (trimmedMean n (xys.map Prod.fst), trimmedMean n (xys.map Prod.snd))

/-- Do two codes differ by at most the tolerance (rule R235)? -/
def within (tol a b : Nat) : Bool := decide (a - b ≤ tol) && decide (b - a ≤ tol)

/-- `agree` of `TWICE()`: on both axes (rule R235). -/
def agree (tol : Nat) (p q : Nat × Nat) : Bool := within tol p.1 q.1 && within tol p.2 q.2

/-- `mean` of `TWICE()`, rounding down (rule R235). -/
def meanOf (p q : Nat × Nat) : Nat × Nat := ((p.1 + q.1) / 2, (p.2 + q.2) / 2)

/-- `{ry, rx}` as TRAW holds a pair of codes, each zero-extended (rules R32, R232). -/
def packRaw (p : Nat × Nat) : Word := packHalves (BitVec.ofNat 16 p.2) (BitVec.ofNat 16 p.1)

/-- The first average of a command's samples. -/
def firstAverage (n : Nat) (rx : List Byte) : Nat × Nat := average n ((samples rx).take n)

/-- The second average of a command's samples. -/
def secondAverage (n : Nat) (rx : List Byte) : Nat × Nat := average n (((samples rx).drop n).take n)

/-- Did the two averages of a TOUCH_TWICE or TOUCH_SCAN agree (rule R235)? -/
def readsAgree (c : Config) (rx : List Byte) : Bool :=
  agree c.touchTol (firstAverage c.touchN rx) (secondAverage c.touchN rx)

/-- The mean of the two averages (rule R235). -/
def readsMean (c : Config) (rx : List Byte) : Nat × Nat :=
  meanOf (firstAverage c.touchN rx) (secondAverage c.touchN rx)

/-- The raw sample a TOUCH_RAW took. -/
def rawSample (rx : List Byte) : Nat × Nat := (samples rx).headD (0, 0)

/-- What every touch command commits: TVALID, and WINOPEN to 0 (rules R42, R230). -/
def State.commitTouch (valid : Bool) (s : State) : State :=
  { s with status := { s.status with tvalid := valid, winopen := false } }

/-! ### TOUCH_RAW (rules R236, R237) -/

/-- TOUCH_RAW's procedure. -/
def touchRawActs (s : State) : List Act := rawRead s.cfg ++ [.finish]

/-- TOUCH_RAW (rule R236): needs no READY. -/
def execTouchRaw (s : State) : Host.Outcome State Fault Refusal := accept .touchRaw true false touchRawActs s

/-- TOUCH_RAW's commit: the raw sample, not an agreed mean (rule R236). -/
def commitTouchRaw (r : Running) (s : State) : State :=
  { s.commitTouch false with traw := packRaw (rawSample r.rx) }

/-! ### TOUCH_AVG (rules R239, R240) -/

/-- TOUCH_AVG's procedure. -/
def touchAvgActs (s : State) : List Act := avgActs s.cfg s.cfg.touchN ++ [.finish]

/-- TOUCH_AVG (rule R239): needs no READY. -/
def execTouchAvg (s : State) : Host.Outcome State Fault Refusal := accept .touchAvg true false touchAvgActs s

/-- TOUCH_AVG's commit: one average (rule R239). -/
def commitTouchAvg (r : Running) (s : State) : State :=
  { s.commitTouch false with traw := packRaw (firstAverage s.cfg.touchN r.rx) }

/-! ### TOUCH_TWICE (rules R241, R242) -/

/-- TOUCH_TWICE's procedure. -/
def touchTwiceActs (s : State) : List Act := twiceActs s.cfg ++ [.finish]

/-- TOUCH_TWICE (rule R241): needs no READY. -/
def execTouchTwice (s : State) : Host.Outcome State Fault Refusal := accept .touchTwice true false touchTwiceActs s

/-- TOUCH_TWICE's commit: the mean when the averages agree; TRAW is unchanged otherwise (rule R241). -/
def commitTouchTwice (r : Running) (s : State) : State :=
  { s.commitTouch (readsAgree s.cfg r.rx) with
    traw := if readsAgree s.cfg r.rx then packRaw (readsMean s.cfg r.rx) else s.traw }

/-! ### TOUCH_SCAN (rules R243 to R245) -/

/-- TOUCH_SCAN's procedure: the pen sample when PEN_DETECT is true, then `TWICE()` (rules R243, R244). -/
def touchScanActs (s : State) : List Act :=
  (if s.cfg.penDetect then [.samplePen] else []) ++ twiceActs s.cfg ++ [.finish]

/-- TOUCH_SCAN (rule R244): needs no READY. -/
def execTouchScan (s : State) : Host.Outcome State Fault Refusal := accept .touchScan true false touchScanActs s

/-- `pressed` of TOUCH_SCAN: the pen was not up and the averages agree (rule R244). -/
def scanPressed (c : Config) (r : Running) : Bool := r.pen != some .up && readsAgree c r.rx

/-- The press of a TOUCH_SCAN that found one: TRAW, and the transform of the mean (rule R244). -/
def State.commitPress (mean : Nat × Nat) (s : State) : State :=
  { s with traw := packRaw mean }.commitXform (s.xform mean.1 mean.2)

/-- The pressed bits of a TOUCH_SCAN: JUSTP on the rising edge, and PRESSED (rules R53, R244). -/
def State.commitPressed (pressed : Bool) (s : State) : State :=
  { s with status :=
    { s.status with justp := s.status.justp || (pressed && !s.status.pressed), pressed := pressed } }

/-- TOUCH_SCAN's commit (rule R244). -/
def commitTouchScan (r : Running) (s : State) : State :=
  ((if scanPressed s.cfg r then s.commitPress (readsMean s.cfg r.rx) else s).commitPressed
    (scanPressed s.cfg r)).commitTouch (scanPressed s.cfg r)

end Sys2Proof.Machine
end

