-- ==== Sys2Proof/Machine/Dispatch.lean ====
section
/-! DEFINITION. The meaning of each command: its acceptance (10_state.md rule R38), after which the engine runs its
procedure and commits it. -/

namespace Sys2Proof.Machine

def exec (i : Instr) (s : State) : Host.Outcome State Fault Refusal :=
  match i with
  | .nop => Sys2Proof.Machine.execNop s
  | .beginPanel o bl => Sys2Proof.Machine.execBegin o bl s
  | .setOrient o => Sys2Proof.Machine.execSetOrient o s
  | .setWindow => Sys2Proof.Machine.execSetWindow s
  | .stream => Sys2Proof.Machine.execStream s
  | .setPixel => Sys2Proof.Machine.execSetPixel s
  | .fillArea => Sys2Proof.Machine.execFillArea s
  | .clear => Sys2Proof.Machine.execClear s
  | .drawPoint sz ds => Sys2Proof.Machine.execDrawPoint sz ds s
  | .drawLine sz ls ds => Sys2Proof.Machine.execDrawLine sz ls ds s
  | .drawRect sz ls fl ds => Sys2Proof.Machine.execDrawRect sz ls fl ds s
  | .drawCircle sz fl ds => Sys2Proof.Machine.execDrawCircle sz fl ds s
  | .touchRaw => Sys2Proof.Machine.execTouchRaw s
  | .touchAvg => Sys2Proof.Machine.execTouchAvg s
  | .touchTwice => Sys2Proof.Machine.execTouchTwice s
  | .touchScan => Sys2Proof.Machine.execTouchScan s
  | .map => Sys2Proof.Machine.execMap s

end Sys2Proof.Machine
end

