-- ==== Sys2Proof/Machine/Engine.lean ====
section
/-! DEFINITION. The command engine (10_state.md rules R40, R41): one event a step, then the commit. -/

namespace Sys2Proof.Machine

/-- What a command writes at completion besides BUSY and DONE (rules R40, R49). -/
def commitResults (r : Running) (s : State) : State :=
  match r.cmd with
  | .nop => commitNop r s
  | .beginPanel o _ => commitBegin o r s
  | .setOrient o => commitSetOrient o r s
  | .setWindow => commitSetWindow r s
  | .stream => commitStream r s
  | .setPixel => commitSetPixel r s
  | .fillArea => commitFillArea r s
  | .clear => commitClear r s
  | .drawPoint _ _ => commitDrawPoint r s
  | .drawLine _ ls _ => commitDrawLine ls r s
  | .drawRect sz ls fl _ => commitDrawRect sz ls fl r s
  | .drawCircle _ _ _ => commitDrawCircle r s
  | .touchRaw => commitTouchRaw r s
  | .touchAvg => commitTouchAvg r s
  | .touchTwice => commitTouchTwice r s
  | .touchScan => commitTouchScan r s
  | .map => commitMap r s

/-- The commit of a running command: its results, BUSY to 0 and DONE to 1, all in one cycle (rule R40). -/
def commit (r : Running) (s : State) : State := (commitResults r s).complete

/-- One step of the engine: the next event of the running command, or its commit; nothing when idle (rules R41, R76).
That an event, and the commit, are a step each is log entry 9 (DESIGN CHOICE). -/
def engineStep (s : State) : State :=
  match s.engine with
  | .idle => s
  | .run r =>
    match r.todo with
    | [] => commit r s
    | slot :: rest => s.performSlot r rest slot

/-- `n` steps of the engine. -/
def engineSteps : Nat → State → State
  | 0, s => s
  | n + 1, s => engineSteps n (engineStep s)

/-- How many engine steps are enough for a running command to commit: its slots, the two CLOSE events a pen level UP
may leave, and the commit. -/
def State.stepsLeft (s : State) : Nat :=
  match s.engine with
  | .idle => 0
  | .run r => r.todo.length + 3

/-- The state once the running command has committed, with nothing else happening meanwhile (rule R338: every command
terminates). -/
def State.settle (s : State) : State := engineSteps s.stepsLeft s

end Sys2Proof.Machine
end

