-- ==== Sys2Proof/Machine/Bus.lean ====
section
/-! DEFINITION. The host side: the register map (10_state.md rule R21), the host's accesses (20_memory.md rules R70 to
R74), and what one input from outside does (70_reset_and_hazards.md rules R310, R335, R336). -/

namespace Sys2Proof.Machine

/-- The registers of the map (rule R21). -/
inductive HostReg where
  | id
  | status
  | cmd
  | arg0
  | arg1
  | arg2
  | arg3
  | geom
  | orient
  | traw
  | tsx
  | tsy
  | calSel
  | calXfac
  | calYfac
  | calXoff
  | calYoff
  | calValid
  /-- offsets 0x48 to 0x7C (rule R37) -/
  | reserved
deriving DecidableEq, Repr

/-- The registers of offsets 0x00 to 0x44, in order (rule R21). -/
def registerMap : List HostReg :=
  [.id, .status, .cmd, .arg0, .arg1, .arg2, .arg3, .geom, .orient, .traw, .tsx, .tsy, .calSel, .calXfac,
   .calYfac, .calXoff, .calYoff, .calValid]

/-- The offset of CMD (rule R25). -/
def cmdOffset : Nat := 0x08

/-- The register an access reaches, or `none` for an access the model refuses: another width than 4, an unaligned
offset, an offset of 0x80 or above (rule R70). -/
def registerAt (off width : Nat) : Option HostReg :=
  if width = 4 ∧ off % 4 = 0 ∧ off < 0x80 then some (registerMap.getD (off / 4) .reserved) else none

/-- ID (rule R22). -/
def idWord : Word := 0x53504301

/-- GEOM reads `{H, W}` (rule R30). -/
def State.geom (s : State) : Word :=
  packHalves (BitVec.ofNat 16 (height s.cfg s.orient)) (BitVec.ofNat 16 (width s.cfg s.orient))

/-- The value a read of a register returns; no read has a side effect (rules R21 to R37, R51). -/
def State.readReg (s : State) : HostReg → Word
  | .id => idWord
  | .status => s.status.toWord s.busy
  | .cmd => 0
  | .arg0 => s.arg.a0
  | .arg1 => s.arg.a1
  | .arg2 => s.arg.a2
  | .arg3 => s.arg.a3
  | .geom => s.geom
  | .orient => s.orient.setWidth 32
  | .traw => s.traw
  | .tsx => s.tsx
  | .tsy => s.tsy
  | .calSel => s.calSel.setWidth 32
  | .calXfac => (entry s.cal s.calSel).xfac
  | .calYfac => (entry s.cal s.calSel).yfac
  | .calXoff => (entry s.cal s.calSel).xoff
  | .calYoff => (entry s.cal s.calSel).yoff
  | .calValid => s.calValid.setWidth 32
  | .reserved => 0

/-- A write to a calibration register: dropped with OVR while BUSY (rules R35, R36, R50). -/
def State.writeCal (write : State → State) (s : State) : State := if s.busy then s.overrun else write s

/-- The bank CAL_SEL selects, changed (rule R35). -/
def State.updateBank (f : CalBank → CalBank) (s : State) : State :=
  { s with cal := setEntry s.cal s.calSel (f (entry s.cal s.calSel)) }

/-- A write to CMD (rules R25, R38): dropped with OVR while BUSY, whatever the word; else ILL for a word that is no
command; else the command's acceptance. -/
def State.writeCmd (v : Word) (s : State) : Host.Outcome State Fault Refusal :=
  if s.busy then .next s.overrun
  else
    match decode v with
    | .illegal _ => .next s.rejectIll
    | .instr i => exec i s

/-- A write to a register (rules R21 to R37, R73). RO and reserved registers ignore it. -/
def State.writeReg (v : Word) (s : State) : HostReg → Host.Outcome State Fault Refusal
  | .id => .next s
  | .status => .next { s with status := s.status.clearW1C v }
  | .cmd => s.writeCmd v
  | .arg0 => .next { s with arg := { s.arg with a0 := v } }
  | .arg1 => .next { s with arg := { s.arg with a1 := v } }
  | .arg2 => .next { s with arg := { s.arg with a2 := v } }
  | .arg3 => .next { s with arg := { s.arg with a3 := v } }
  | .geom => .next s
  | .orient => .next s
  | .traw => .next s
  | .tsx => .next s
  | .tsy => .next s
  | .calSel => .next (s.writeCal fun t => { t with calSel := v.extractLsb' 0 3 })
  | .calXfac => .next (s.writeCal fun t => t.updateBank fun b => { b with xfac := v })
  | .calYfac => .next (s.writeCal fun t => t.updateBank fun b => { b with yfac := v })
  | .calXoff => .next (s.writeCal fun t => t.updateBank fun b => { b with xoff := v })
  | .calYoff => .next (s.writeCal fun t => t.updateBank fun b => { b with yoff := v })
  | .calValid => .next (s.writeCal fun t => { t with calValid := v.extractLsb' 0 8 })
  | .reserved => .next s

/-- The host receives the value of a read. -/
def State.deliver (off : Nat) (v : Word) (s : State) : State := { s with reads := s.reads ++ [⟨off, v⟩] }

/-- One host access (rules R70, R73). -/
def State.access (s : State) : Access → Host.Outcome State Fault Refusal
  | .read off w =>
    match registerAt off w with
    | none => .refused (.busAccess off w)
    | some r => .next (s.deliver off (s.readReg r))
  | .write off w v =>
    match registerAt off w with
    | none => .refused (.busAccess off w)
    | some r => s.writeReg v r

/-- A host access while RST_N is 0: reads return the reset values, writes are ignored (rule R310). `s` is the state
under reset. -/
def State.accessInReset (s : State) : Option Access → Host.Outcome State Fault Refusal
  | none => .next s
  | some (.read off w) => s.access (.read off w)
  | some (.write off w _) =>
    match registerAt off w with
    | none => .refused (.busAccess off w)
    | some _ => .next s

/-- The engine's step after a host access of the same clock cycle: the access acts on the state before the engine's,
so a sticky bit the host clears and the engine sets ends set (rule R24, log entry 10). -/
def thenEngine (tick : Bool) : Host.Outcome State Fault Refusal → Host.Outcome State Fault Refusal
  | .next s => .next (if tick then engineStep s else s)
  | .fault r => .fault r
  | .refused r => .refused r

/-- The offset of STATUS (rule R21). -/
def statusOffset : Nat := 0x04

/-- One turn of `POLL` (rule R121): a read of STATUS. While BUSY is 1 the loop goes on, the `POLL` staying the next
input, and the engine takes its next step (rule R338). `s` has the inputs after the `POLL`. -/
def State.pollTurn (s : State) : State :=
  let t := s.deliver statusOffset (s.readReg .status)
  if s.busy then engineStep { t with inputs := .poll :: s.inputs } else t

/-- What one input does (rules R310, R335, R336). `s` has the inputs after it. Only an engine that was running when
the cycle began steps in the cycle of an access (log entry 10, DEDUCED). -/
def State.takeInput (s : State) : Input → Host.Outcome State Fault Refusal
  | .access a tick => thenEngine (tick && s.busy) (s.access a)
  | .poll => .next s.pollTurn
  | .engine => .next (engineStep s)
  | .reset a => s.blockReset.accessInReset a

/-- One step of the machine: the next input; when none is left the engine runs on, and an idle engine waits (rules
R313, R337). -/
def State.cycle (s : State) : Host.Outcome State Fault Refusal :=
  match s.inputs with
  | [] => .next (engineStep s)
  | i :: rest => { s with inputs := rest }.takeInput i

/-! ### Byte lanes (rules R71, R72) -/

/-- The bus address of byte lane `k` of the register at an offset (rule R71). -/
def laneAddress (c : Config) (off k : Nat) : Nat := c.base.toNat + off + k

/-- The register bits byte lane `k` carries: `8k+7 : 8k` (rule R71). -/
def laneByte (v : Word) (k : Nat) : Byte := v.extractLsb' (8 * k) 8

end Sys2Proof.Machine
end

