-- ==== Sys2Proof/Machine/Step.lean ====
section
/-! DEFINITION. The step function, and the state in which the next step runs a given command word. -/

namespace Sys2Proof.Machine

/-- One step of the machine (rules R93, R335, R336). -/
def step (s : State) : Host.Outcome State Fault Refusal := s.cycle

/-- The host access that gives the block a command: a write of the word to CMD (rules R25, R110). -/
def commandInput (v : Word) : Input := .access (.write cmdOffset 4 v) false

/-- `s` with the command word `w` as the host's next access. The block fetches no program (rule R48): a command
reaches it as a CMD write, so this stands for the host program (log entry 2). -/
def State.withFetchWord (s : State) (nbits w : Nat) : State :=
  { s with inputs := commandInput (BitVec.ofNat 32 (w % 2 ^ nbits)) :: s.inputs }

end Sys2Proof.Machine
end

