-- ==== Sys2Proof/Machine/HostProgram.lean ====
section
/-! DEFINITION. Host programs (30_encoding.md rules R120 to R122): the assembler's modifiers, the four kinds of line,
and the pseudo-instructions. A program becomes the inputs a state holds. -/

namespace Sys2Proof.Machine

/-! ### Commands in assembler notation (rule R120) -/

/-- A modifier of the assembler notation (rule R120). -/
inductive Modifier where
  | s (n : Nat)
  | dot
  | fill
  | ar
  | o (n : Nat)
  | bl (n : Nat)
deriving DecidableEq, Repr

/-- The modifiers of one command; `none` and `false` are absent. -/
structure Modifiers where
  s : Option Nat
  dot : Bool
  fill : Bool
  ar : Bool
  o : Option Nat
  bl : Option Nat
deriving DecidableEq, Repr

/-- No modifier. -/
def Modifiers.none : Modifiers := ⟨Option.none, false, false, false, Option.none, Option.none⟩

/-- One more modifier, in its range and not given before (rule R120). -/
def Modifiers.add (m : Modifiers) : Modifier → Option Modifiers
  | .s n => if m.s = Option.none ∧ 1 ≤ n ∧ n ≤ 8 then some { m with s := some n } else Option.none
  | .dot => if m.dot then Option.none else some { m with dot := true }
  | .fill => if m.fill then Option.none else some { m with fill := true }
  | .ar => if m.ar then Option.none else some { m with ar := true }
  | .o n => if m.o = Option.none ∧ n ≤ 7 then some { m with o := some n } else Option.none
  | .bl n => if m.bl = Option.none ∧ n ≤ 255 then some { m with bl := some n } else Option.none

/-- The modifiers of a list in any order, or an assembly error (rule R120). -/
def Modifiers.collect : List Modifier → Modifiers → Option Modifiers
  | [], m => some m
  | x :: xs, m => (m.add x).bind (Modifiers.collect xs)

/-- SZ of the modifiers: absent means 1 (rule R120). -/
def Modifiers.size (m : Modifiers) : Nat := m.s.getD 1

/-- LS of the modifiers. -/
def Modifiers.lineStyle (m : Modifiers) : LineStyle := if m.dot then .dotted else .solid

/-- FL of the modifiers. -/
def Modifiers.fillStyle (m : Modifiers) : FillStyle := if m.fill then .filled else .stroked

/-- DS of the modifiers. -/
def Modifiers.dotStyle (m : Modifiers) : DotStyle := if m.ar then .fillAround else .anchored

/-- OR of the modifiers: absent means 0. -/
def Modifiers.orient (m : Modifiers) : Orientation := BitVec.ofNat 3 (m.o.getD 0)

/-- BL of the modifiers: absent means 0. -/
def Modifiers.level (m : Modifiers) : Byte := BitVec.ofNat 8 (m.bl.getD 0)

/-- The command when every given modifier is one its format uses; else an assembly error. The flags say whether the
format uses SZ and DS, LS, FL, OR and BL (rules R112, R120). -/
def Modifiers.forFormat (m : Modifiers) (sized ls fl or bl : Bool) (i : Instr) : Option Instr :=
  if (m.s.isSome && !sized) || (m.ar && !sized) || (m.dot && !ls) || (m.fill && !fl) ||
      (m.o.isSome && !or) || (m.bl.isSome && !bl) then Option.none
  else some i

/-- The command a mnemonic and its modifiers stand for, or an assembly error (rule R120). -/
def assemble (mnemonic : String) (mods : List Modifier) : Option Instr :=
  (Modifiers.collect mods Modifiers.none).bind fun m =>
    match mnemonic with
    | "NOP" => m.forFormat false false false false false .nop
    | "BEGIN" => m.forFormat false false false true true (.beginPanel m.orient m.level)
    | "SET_ORIENT" => m.forFormat false false false true false (.setOrient m.orient)
    | "SET_WINDOW" => m.forFormat false false false false false .setWindow
    | "STREAM" => m.forFormat false false false false false .stream
    | "SET_PIXEL" => m.forFormat false false false false false .setPixel
    | "FILL_AREA" => m.forFormat false false false false false .fillArea
    | "CLEAR" => m.forFormat false false false false false .clear
    | "DRAW_POINT" => m.forFormat true false false false false (.drawPoint m.size m.dotStyle)
    | "DRAW_LINE" => m.forFormat true true false false false (.drawLine m.size m.lineStyle m.dotStyle)
    | "DRAW_RECT" =>
      m.forFormat true true true false false (.drawRect m.size m.lineStyle m.fillStyle m.dotStyle)
    | "DRAW_CIRCLE" => m.forFormat true false true false false (.drawCircle m.size m.fillStyle m.dotStyle)
    | "TOUCH_RAW" => m.forFormat false false false false false .touchRaw
    | "TOUCH_AVG" => m.forFormat false false false false false .touchAvg
    | "TOUCH_TWICE" => m.forFormat false false false false false .touchTwice
    | "TOUCH_SCAN" => m.forFormat false false false false false .touchScan
    | "MAP" => m.forFormat false false false false false .map
    | _ => Option.none

/-! ### Lines (rule R121) -/

/-- A register name of rule R21, for the host's lines. -/
def offsetOf (r : HostReg) : Nat := 4 * registerMap.idxOf r

/-- One line of a host program (rule R121). -/
inductive HostLine where
  /-- `W <reg>, <imm32>` -/
  | w (r : HostReg) (v : Word)
  /-- `R <reg>` -/
  | r (r : HostReg)
  /-- `C <command>` -/
  | c (i : Instr)
  /-- `POLL` -/
  | poll
deriving DecidableEq, Repr

/-- The input a line is (rule R121). No engine step falls into the cycle of a `W`, `R` or `C` line, and none between two
lines: of a program placed by withProgram the engine runs only under `POLL` and after the last line. How far it runs
between lines is open (rules R44, R336, R337); this pace is the model's choice (log entry 30, DESIGN CHOICE), and every
other one is a list of inputs with ticks and engine steps of its own. -/
def HostLine.input : HostLine → Input
  | .w reg v => .access (.write (offsetOf reg) 4 v) false
  | .r reg => .access (.read (offsetOf reg) 4) false
  | .c i => .access (.write cmdOffset 4 (encode i)) false
  | .poll => .poll

/-- A state whose next inputs are a host program (log entry 2), at the pace of log entry 30. -/
def State.withProgram (s : State) (p : List HostLine) : State :=
  { s with inputs := p.map HostLine.input ++ s.inputs }

/-! ### Pseudo-instructions (rule R122) -/

/-- `W ARG0, {y, x}`. -/
def setPoint0 (x y : Half) : HostLine := .w .arg0 (packHalves y x)

/-- `W ARG1, {y, x}`. -/
def setPoint1 (x y : Half) : HostLine := .w .arg1 (packHalves y x)

/-- `W ARG2, {bg, fg}`. -/
def setColours (fg bg : Half) : HostLine := .w .arg2 (packHalves bg fg)

/-- `begin o, bl`. -/
def pseudoBegin (o : Orientation) (bl : Byte) : List HostLine := [.c (.beginPanel o bl), .poll]

/-- `orient o`. -/
def pseudoOrient (o : Orientation) : List HostLine := [.c (.setOrient o), .poll]

/-- `window x0,y0,x1,y1`. -/
def pseudoWindow (x0 y0 x1 y1 : Half) : List HostLine :=
  [setPoint0 x0 y0, setPoint1 x1 y1, .c .setWindow, .poll]

/-- `stream c, n`. -/
def pseudoStream (c : Half) (n : Word) : List HostLine := [setColours c 0, .w .arg3 n, .c .stream, .poll]

/-- `pixel x,y,c`. -/
def pseudoPixel (x y c : Half) : List HostLine := [setPoint0 x y, setColours c 0, .c .setPixel, .poll]

/-- `fill x0,y0,x1,y1,c`. -/
def pseudoFill (x0 y0 x1 y1 c : Half) : List HostLine :=
  [setPoint0 x0 y0, setPoint1 x1 y1, setColours c 0, .c .fillArea, .poll]

/-- `clear c`. -/
def pseudoClear (c : Half) : List HostLine := [setColours c 0, .c .clear, .poll]

/-- `point x,y,c` with DRAW_POINT's modifiers. -/
def pseudoPoint (x y c : Half) (sz : Nat) (ds : DotStyle) : List HostLine :=
  [setPoint0 x y, setColours c 0, .c (.drawPoint sz ds), .poll]

/-- `line x0,y0,x1,y1,fg,bg` with DRAW_LINE's modifiers. -/
def pseudoLine (x0 y0 x1 y1 fg bg : Half) (sz : Nat) (ls : LineStyle) (ds : DotStyle) : List HostLine :=
  [setPoint0 x0 y0, setPoint1 x1 y1, setColours fg bg, .c (.drawLine sz ls ds), .poll]

/-- `rect x0,y0,x1,y1,fg,bg` with DRAW_RECT's modifiers. -/
def pseudoRect (x0 y0 x1 y1 fg bg : Half) (sz : Nat) (ls : LineStyle) (fl : FillStyle) (ds : DotStyle) :
    List HostLine :=
  [setPoint0 x0 y0, setPoint1 x1 y1, setColours fg bg, .c (.drawRect sz ls fl ds), .poll]

/-- `circle xc,yc,r,c` with DRAW_CIRCLE's modifiers. -/
def pseudoCircle (xc yc c : Half) (r : Word) (sz : Nat) (fl : FillStyle) (ds : DotStyle) : List HostLine :=
  [setPoint0 xc yc, .w .arg3 r, setColours c 0, .c (.drawCircle sz fl ds), .poll]

/-- `scan`. -/
def pseudoScan : List HostLine := [.c .touchScan, .poll]

/-- `map rx,ry`. -/
def pseudoMap (rx ry : Half) : List HostLine := [setPoint0 rx ry, .c .map, .poll]

/-- `calset o, xf, yf, xo, yo`, `old` being the CAL_VALID value the host's read of it returns. The prose of rule R122
lets every pseudo-instruction end with `POLL`, while the table's row of this one has none: the model takes the row, and
the expansion ends with the CAL_VALID write (log entry 29, DESIGN CHOICE). -/
def pseudoCalset (o : Orientation) (xf yf xo yo : Word) (old : Word) : List HostLine :=
  [.w .calSel (o.setWidth 32), .w .calXfac xf, .w .calYfac yf, .w .calXoff xo, .w .calYoff yo,
   .r .calValid, .w .calValid (old ||| (1#32 <<< o.toNat))]

end Sys2Proof.Machine
end

