-- ==== Sys2Proof/Safety.lean ====
section
/-! DEFINITION. What counts as a good state, in the terms the statements use: the invariant of the machine, the frame
of a step, and what is observed at the end of a run (70_reset_and_hazards.md rule R337). -/

namespace Sys2Proof.Machine

/-! ### Sessions over the events still to make (rules R77, R81, R141) -/

/-- May the event happen while these sessions are open? A panel byte needs a PANEL session alone, a touch byte a TOUCH
session alone, a session opens when none is open and at its device's rate, only an open session closes, RST, BL and
PEN fall outside every session (rules R77, R81, R147, R243), and a wait is longer than 0 (rule R80). -/
def eventAllowed (σ : Sessions) : Event → Bool
  | .rst _ => !σ.panel && !σ.touch
  | .opened d r => !σ.panel && !σ.touch && r == rateOf d
  | .closed d => σ.isOpen d
  | .ptx _ _ => σ.panel && !σ.touch
  | .ttx _ => σ.touch && !σ.panel
  | .trx _ => σ.touch && !σ.panel
  | .wait t => decide (0 < t)
  | .bl _ => !σ.panel && !σ.touch
  | .pen _ => !σ.panel && !σ.touch

/-- Is every event still to make allowed where it falls, and every session closed at the end (rule R77)? -/
def slotsAllowed : Sessions → List Slot → Bool
  | σ, [] => !σ.panel && !σ.touch
  | σ, .emit e :: rest => eventAllowed σ e && slotsAllowed (σ.after e) rest
  | σ, .receive :: rest => σ.touch && !σ.panel && slotsAllowed σ rest
  | σ, .samplePen :: rest => !σ.panel && !σ.touch && slotsAllowed σ rest

/-- The commands of NEEDS_READY (rule R52). -/
def needsReady : Instr → Bool
  | .nop => false
  | .beginPanel _ _ => false
  | .setOrient _ => true
  | .setWindow => true
  | .stream => true
  | .setPixel => true
  | .fillArea => true
  | .clear => true
  | .drawPoint _ _ => true
  | .drawLine _ _ _ => true
  | .drawRect _ _ _ _ => true
  | .drawCircle _ _ _ => true
  | .touchRaw => false
  | .touchAvg => false
  | .touchTwice => false
  | .touchScan => false
  | .map => false

/-! ### The invariant -/

/-- ENG, SESS and READY agree: an idle engine has every session closed; a running command's remaining events are
allowed where they fall, and it was accepted with READY = 1 where it needs that (rules R38, R52, R77). -/
def State.engineOK (s : State) : Bool :=
  match s.engine with
  | .idle => !s.sess.panel && !s.sess.touch
  | .run r => slotsAllowed s.sess r.todo && (!needsReady r.cmd || s.status.ready)

/-- Both fields of TRAW are in 0..8191 (rule R32). -/
def State.trawOK (s : State) : Bool :=
  decide ((lowHalf s.traw).toNat ≤ 8191) && decide ((highHalf s.traw).toNat ≤ 8191)

/-- Before BEGIN completes no window is open and nothing is dirty (rules R23, R52, R316). -/
def State.readyOK (s : State) : Bool := s.status.ready || (!s.status.winopen && !s.status.dirty)

/-- The invariant of the machine. -/
def State.Inv (s : State) : Prop :=
  s.cfg.wf = true ∧ Memory.wf s.panel.img = true ∧ s.engineOK = true ∧ s.trawOK = true ∧ s.readyOK = true

/-! ### What a step may not end in -/

/-- The step gives a next state. -/
def isNext : Host.Outcome State Fault Refusal → Bool
  | .next _ => true
  | .fault _ => false
  | .refused _ => false

/-- A host access the model gives a meaning (rule R70). -/
def Access.supported : Access → Bool
  | .read off w => (registerAt off w).isSome
  | .write off w _ => (registerAt off w).isSome

/-- An input the model gives a meaning (rules R70, R337). -/
def Input.supported : Input → Bool
  | .access a _ => a.supported
  | .poll => true
  | .engine => true
  | .reset none => true
  | .reset (some a) => a.supported

/-! ### The events of a command, as its rule lists them -/

/-- The two bytes of a word on the panel's wire, the high byte first (rule R143). -/
def wordEvents (w : Half) : List Event :=
  [.ptx .data (w.extractLsb' 8 8), .ptx .data (w.extractLsb' 0 8)]

/-- The eleven events of P_WINDOW (rule R144). -/
def windowEvents (c : Config) (x0 y0 x1 y1 : Int) : List Event :=
  .ptx .command c.regCaset :: (wordEvents (coord x0) ++ wordEvents (coord x1)) ++
  .ptx .command c.regPaset :: (wordEvents (coord y0) ++ wordEvents (coord y1)) ++
  [.ptx .command c.regRamwr]

/-- `n` words of one colour. -/
def wordsEvents (n : Nat) (w : Half) : List Event := (List.replicate n (wordEvents w)).flatten

/-- A register write of a parameter table (rule R148). -/
def registerEvents (reg : Byte) (data : List Byte) : List Event :=
  .ptx .command reg :: data.map fun b => .ptx .data b

/-- A wait: no event when it is 0 (rule R80). -/
def waitEvents (t : Nat) : List Event := if t = 0 then [] else [.wait t]

/-- Does a drawing step send anything (rules R145, R146)? -/
def Draw.shown (c : Config) (o : Orientation) : Draw → Bool
  | .pixel x y _ => inBounds c o x y
  | .fill x0 y0 x1 y1 _ => winOK c o x0 y0 x1 y1

/-- The events of one drawing step (rules R145, R146). -/
def Draw.events (c : Config) (o : Orientation) (d : Draw) : List Event :=
  if d.shown c o then
    match d with
    | .pixel x y colour => windowEvents c x y x y ++ wordEvents colour
    | .fill x0 y0 x1 y1 colour =>
      windowEvents c x0 y0 x1 y1 ++ wordsEvents ((x1 - x0 + 1) * (y1 - y0 + 1)).toNat colour
  else []

/-- The events of drawing steps, in order. -/
def drawEvents (c : Config) (o : Orientation) (ds : List Draw) : List Event := ds.flatMap (Draw.events c o)

/-- Is a frame memory address one of the bytes a drawing step stores? -/
def Draw.stores (a : Nat) : Draw → Prop
  | .pixel x y _ => ∃ low, a = pixelAddr x.toNat y.toNat low
  | .fill x0 y0 x1 y1 _ =>
    ∃ x y : Nat, ∃ low, x0 ≤ x ∧ (x : Int) ≤ x1 ∧ y0 ≤ y ∧ (y : Int) ≤ y1 ∧ a = pixelAddr x y low

/-- Does a drawing step cover a pixel? -/
def Draw.covers (x y : Int) : Draw → Bool
  | .pixel px py _ => decide (x = px) && decide (y = py)
  | .fill x0 y0 x1 y1 _ => decide (x0 ≤ x) && decide (x ≤ x1) && decide (y0 ≤ y) && decide (y ≤ y1)

/-- The colour of a drawing step. -/
def Draw.colour : Draw → Half
  | .pixel _ _ colour => colour
  | .fill _ _ _ _ colour => colour

/-- The drawing step a pixel shows after these steps: the last one that is sent and covers it (rule R191). -/
def lastShown (c : Config) (o : Orientation) (x y : Int) (ds : List Draw) : Option Draw :=
  ds.reverse.find? fun d => d.shown c o && d.covers x y

/-- The drawing steps of a drawing command that is accepted in state `s`; `none` for every other command and for an
illegal dot size. -/
def drawSteps (s : State) : Instr → Option (List Draw)
  | .nop => none
  | .beginPanel _ _ => none
  | .setOrient _ => none
  | .setWindow => none
  | .stream => none
  | .setPixel => some (setPixelDraws (s.latch .setPixel))
  | .fillArea => some (fillAreaDraws (s.latch .fillArea))
  | .clear => some (clearDraws (s.latch .clear))
  | .drawPoint sz ds =>
    if sizeLegal sz then some (drawPointDraws sz ds (s.latch (.drawPoint sz ds))) else none
  | .drawLine sz ls ds =>
    if sizeLegal sz then some (drawLineDraws sz ls ds (s.latch (.drawLine sz ls ds))) else none
  | .drawRect sz ls fl ds =>
    if sizeLegal sz then some (drawRectDraws sz ls fl ds (s.latch (.drawRect sz ls fl ds))) else none
  | .drawCircle sz fl ds =>
    if sizeLegal sz then some (drawCircleDraws sz fl ds (s.latch (.drawCircle sz fl ds))) else none
  | .touchRaw => none
  | .touchAvg => none
  | .touchTwice => none
  | .touchScan => none
  | .map => none

/-- Is the event a panel byte? -/
def isPanelByte : Event → Bool
  | .ptx _ _ => true
  | _ => false

/-- A command's events with the one PANEL session they need: OPEN directly before the first panel byte, CLOSE at the
end; no session for a command that sends no panel byte (rule R77). -/
def panelSession (es : List Event) : List Event :=
  if es.any isPanelByte then
    es.takeWhile (fun e => !isPanelByte e) ++
      .opened .panel .fast :: es.dropWhile (fun e => !isPanelByte e) ++ [.closed .panel]
  else es

/-- One TOUCH session (rule R77). -/
def touchSession (es : List Event) : List Event :=
  if es.isEmpty then [] else .opened .touch .slow :: es ++ [.closed .touch]

/-- The response bytes of one raw sample: X high and low, Y high and low (rule R231). -/
structure RawBytes where
  xh : Byte
  xl : Byte
  yh : Byte
  yl : Byte
deriving DecidableEq, Repr

/-- The four bytes in the order they arrive. -/
def RawBytes.toList (q : RawBytes) : List Byte := [q.xh, q.xl, q.yh, q.yl]

/-- The raw sample of four response bytes (rule R231). -/
def RawBytes.sample (q : RawBytes) : Nat × Nat := (rawCode q.xh q.xl, rawCode q.yh q.yl)

/-- The events of one RAWREAD (rule R231). -/
def rawEvents (c : Config) (q : RawBytes) : List Event :=
  .ttx c.touchCmdX :: waitEvents c.tTsettle ++ [.trx q.xh, .trx q.xl] ++
  .ttx c.touchCmdY :: waitEvents c.tTsettle ++ [.trx q.yh, .trx q.yl]

/-- The events of one AVG: a wait between samples, never after the last (rule R233). -/
def avgEvents (c : Config) : List RawBytes → List Event
  | [] => []
  | [q] => rawEvents c q
  | q :: q' :: qs => rawEvents c q ++ waitEvents c.tInter ++ avgEvents c (q' :: qs)

/-- The average of raw samples (rule R233). -/
def averageOf (c : Config) (qs : List RawBytes) : Nat × Nat := average c.touchN (qs.map RawBytes.sample)

/-- All response bytes of raw samples, in order. -/
def bytesOf (qs : List RawBytes) : List Byte := qs.flatMap RawBytes.toList

/-- The state after the engine has made these events. -/
def State.afterEvents (s : State) (es : List Event) : State := es.foldl (fun t e => t.performEvent e) s

/-- A command that only made these events, from its acceptance to its commit: the latches hold the word and the
arguments (rule R39), DONE is set (rule R40), and nothing else differs but what events change. -/
def State.completed (s : State) (i : Instr) (es : List Event) : State :=
  { (s.latch i).afterEvents es with status := { s.status with done := true } }

/-- The engine is idle and no session is open: the state between commands (rule R41). -/
def State.atRest (s : State) : Prop := s.engine = .idle ∧ s.sess = Sessions.closed

/-- The panel is not in the middle of a word or a parameter list. -/
def Panel.steady (p : Panel) : Bool :=
  match p.mode with
  | .idle => true
  | .caset _ => false
  | .paset _ => false
  | .write _ high => high.isNone

/-- The panel tells its three window commands apart. -/
def panelBytesDistinct (c : Config) : Bool :=
  c.regCaset != c.regPaset && c.regCaset != c.regRamwr && c.regPaset != c.regRamwr

/-! ### The end of a run (rule R337) -/

/-- The observation at the end of a run: log, register values in the order of the register map, panel image. -/
structure Observation where
  log : List Event
  registers : List Word
  image : List (List (Option Half))
deriving DecidableEq, Repr

/-- The panel image, row by row (rule R86). -/
def State.image (s : State) : List (List (Option Half)) :=
  (List.range (height s.cfg s.orient)).map fun y =>
    (List.range (width s.cfg s.orient)).map fun x => readPixel s.panel.img x y

/-- What is observed of a run that has ended: the host has no line left and the engine is IDLE (rule R337). -/
def State.observe (s : State) : Option Observation :=
  if s.inputs.isEmpty && !s.busy then
    some { log := s.log, registers := registerMap.map s.readReg, image := s.image }
  else none

end Sys2Proof.Machine
end

