-- ==== Sys2Proof/Certificates/Slice0/Obligations.lean ====
section
/-! DEFINITION. The statements for the provers, each over the machine as it is: encoding, acceptance, the whole effect
of each of the seventeen commands, the host's registers, reset, whole-machine rules, and the mathematics of the
rasterizer, the touch sequencer and the transformer. -/

open Sys2Proof Sys2Proof.Machine

/-! ### Encoding -/

/-- Decoding an encoded command gives the command back, for every command a word can spell, with every operand at
every value its field admits (rules R111 to R117). -/
def Obligations.DecodeEncodeRoundTrip : Prop :=
  ∀ i : Instr, i.wellFormed = true → decode (encode i) = .instr i

/-- A word that decodes is the encoding of what it decodes to, and that command is well formed: no bit of a word is
dropped (rules R113, R117). -/
def Obligations.EncodeOfDecodedWord : Prop :=
  ∀ (v : Word) (i : Instr), decode v = .instr i → encode i = v ∧ i.wellFormed = true

/-- Rule R118 whole: a word is illegal when its OP byte is in no row or when a bit outside its row's fields is 1; the
unassigned OP bytes are the four ranges; an illegal word written while BUSY = 0 sets ILL and DONE and changes
nothing else. -/
def Obligations.IllegalWordsSetIllAndDone : Prop :=
  (∀ v : Word, (∃ why, decode v = .illegal why) ↔
    ∀ r ∈ opcodeMap, v.extractLsb' 0 8 = r.pattern.extractLsb' 0 8 → v &&& (r.mask &&& 0xFFFFFF00) ≠ 0) ∧
  (∀ v : Word, decode v = .illegal .unassignedOp ↔
    let op := (v.extractLsb' 0 8).toNat
    (0x08 ≤ op ∧ op ≤ 0x0F) ∨ (0x14 ≤ op ∧ op ≤ 0x1F) ∨ (0x24 ≤ op ∧ op ≤ 0x2F) ∨ 0x31 ≤ op) ∧
  ∀ (s : State) (v : Word) (why : Illegal) (rest : List Input),
    s.inputs = commandInput v :: rest → s.busy = false → decode v = .illegal why →
      step s = .next { s with inputs := rest, status := { s.status with ill := true, done := true } }

/-- The worked encodings of rule R123: each assembles to its word and decodes back, the four illegal words are
illegal, and DRAW_LINE with SZ = 0 decodes and is rejected with EARG. -/
def Obligations.WorkedEncodingsOfTheSpec : Prop :=
  (∀ p ∈ ([("NOP", [], 0x00000000), ("BEGIN", [.o 5, .bl 200], 0xC8050001), ("SET_ORIENT", [.o 3], 0x00030002),
      ("CLEAR", [], 0x00000007), ("DRAW_POINT", [.s 2, .ar], 0x00004210), ("DRAW_LINE", [], 0x00000111),
      ("DRAW_LINE", [.s 3, .dot], 0x00001311), ("DRAW_RECT", [.s 1, .fill], 0x00002112),
      ("DRAW_RECT", [.s 8, .dot, .ar], 0x00005812), ("DRAW_CIRCLE", [.s 1, .fill], 0x00002113),
      ("TOUCH_SCAN", [], 0x00000023), ("MAP", [], 0x00000030)] : List (String × List Modifier × Word)),
    ∃ i, assemble p.1 p.2.1 = some i ∧ encode i = p.2.2 ∧ decode p.2.2 = .instr i) ∧
  (∀ v ∈ ([0x00001310, 0x01000007, 0x00008111, 0x00000008] : List Word), ∃ why, decode v = .illegal why) ∧
  decode 0x00000011 = .instr (.drawLine 0 .solid .anchored) ∧
  ∀ s : State, s.busy = false → s.writeCmd 0x00000011 = .next s.rejectEarg

/-! ### Acceptance -/

/-- A CMD write of a word that decodes to `i`, while BUSY = 0, is one step: the step is exec of `i` on the state with
that input taken (rules R38, R117, R335). That no engine step falls into the acceptance cycle, even with tick = true, is
no rule of the spec but the model's choice (log entry 10, DEDUCED). -/
def Obligations.StepRunsTheDecodedCommand : Prop :=
  ∀ (s : State) (v : Word) (i : Instr) (tick : Bool) (rest : List Input),
    s.inputs = .access (.write cmdOffset 4 v) tick :: rest → s.busy = false → decode v = .instr i →
      step s = exec i { s with inputs := rest }

/-- The fetch interface: the step after withFetchWord runs the command the decoder reads from the table word, on an
idle machine (log entry 2). -/
def Obligations.FetchWordRunsTheTableWord : Prop :=
  ∀ (s : State) (nbits w : Nat) (i : Instr), nbits ≤ 32 → s.busy = false → decodeTableWord nbits w = some i →
    step (s.withFetchWord nbits w) = exec i s

/-- While BUSY = 1 a CMD write of any word, legal or not, sets OVR and changes nothing else; so does every command's
acceptance (rules R38, R322). -/
def Obligations.CommandWhileBusyOnlySetsOvr : Prop :=
  (∀ (s : State) (v : Word), s.busy = true →
    s.access (.write cmdOffset 4 v) = .next { s with status := { s.status with ovr := true } }) ∧
  ∀ (s : State) (i : Instr), s.busy = true →
    exec i s = .next { s with status := { s.status with ovr := true } }

/-- Rejections leave every other register, the pins and the log unchanged: a dot size outside 1..8 sets EARG and DONE,
whatever READY is; otherwise READY = 0 sets NRDY and DONE for every command of NEEDS_READY (rules R38, R52, R285). -/
def Obligations.RejectionsOfTheFieldAndReadyChecks : Prop :=
  (∀ (s : State) (sz : Nat) (ls : LineStyle) (fl : FillStyle) (ds : DotStyle), s.busy = false → sz = 0 ∨ 8 < sz →
    ∀ i ∈ ([.drawPoint sz ds, .drawLine sz ls ds, .drawRect sz ls fl ds, .drawCircle sz fl ds] : List Instr),
      exec i s = .next { s with status := { s.status with earg := true, done := true } }) ∧
  (∀ (s : State) (i : Instr), s.busy = false → s.status.ready = false → needsReady i = true →
    (∀ sz ds, i = .drawPoint sz ds → 1 ≤ sz ∧ sz ≤ 8) → (∀ sz ls ds, i = .drawLine sz ls ds → 1 ≤ sz ∧ sz ≤ 8) →
    (∀ sz ls fl ds, i = .drawRect sz ls fl ds → 1 ≤ sz ∧ sz ≤ 8) →
    (∀ sz fl ds, i = .drawCircle sz fl ds → 1 ≤ sz ∧ sz ≤ 8) →
      exec i s = .next { s with status := { s.status with nrdy := true, done := true } })

/-! ### The whole effect of each command

Each says that exec answers a next state, the accepted one with BUSY = 1, and gives the whole state once the engine
has made the command's events and committed it: `completed` holds the log with exactly these events added and what
they do to pins, sessions and panel, the two latches and DONE; every field not named is as before. -/

/-- NOP (rule R140): no event, only DONE. -/
def Obligations.NopCompletes : Prop :=
  ∀ s : State, s.atRest → ∃ t, exec .nop s = .next t ∧ t.busy = true ∧ t.settle = s.completed .nop []

/-- BEGIN (rules R147, R148, R149): the reset pulse, the init table in order, the orientation registers, sleep-out and
display-on with their waits, in one PANEL session, then the backlight; ORIENT, READY, DIRTY and WINOPEN. Needs no
READY. That the panel's image is unknown afterwards is log entry 16. -/
def Obligations.BeginCompletes : Prop :=
  ∀ (s : State) (o : Orientation) (bl : Byte), s.atRest →
    let c := s.cfg
    let pulse := .rst .released :: waitEvents c.tRstPre ++ .rst .asserted :: waitEvents c.tRstHold ++
      .rst .released :: waitEvents c.tRstPost
    let table := c.initTable.flatMap fun e => registerEvents e.reg e.data ++ waitEvents e.postWait
    let direction := (entry c.orientRegs o).flatMap fun w => registerEvents w.reg w.data
    let wake := waitEvents c.tOrientSettle ++ .ptx .command c.regSlpout :: waitEvents c.tSlpout ++
      .ptx .command c.regDispon :: waitEvents c.tDispon
    let u := s.completed (.beginPanel o bl) (panelSession (pulse ++ table ++ direction ++ wake) ++ [.bl bl])
    ∃ t, exec (.beginPanel o bl) s = .next t ∧ t.busy = true ∧
      t.settle = { u with
        orient := o
        status := { s.status with ready := true, dirty := true, winopen := false, done := true }
        panel := u.panel.forget }

/-- SET_ORIENT (rule R150): the orientation registers and no wait; ORIENT, DIRTY and WINOPEN. That the panel's image
is unknown afterwards even with an empty table is log entry 16. -/
def Obligations.SetOrientCompletes : Prop :=
  ∀ (s : State) (o : Orientation), s.atRest → s.status.ready = true →
    let direction := (entry s.cfg.orientRegs o).flatMap fun w => registerEvents w.reg w.data
    let u := s.completed (.setOrient o) (panelSession direction)
    ∃ t, exec (.setOrient o) s = .next t ∧ t.busy = true ∧
      t.settle = { u with
        orient := o
        status := { s.status with dirty := true, winopen := false, done := true }
        panel := u.panel.forget }

/-- SET_WINDOW (rules R153, R154): P_WINDOW and WINOPEN when the window is on the panel and not reversed; otherwise no
event, not even OPEN, and nothing but DONE. -/
def Obligations.SetWindowCompletes : Prop :=
  ∀ s : State, s.atRest → s.status.ready = true →
    let a := s.arg
    ∃ t, exec .setWindow s = .next t ∧ t.busy = true ∧
      t.settle =
        if a.x0 ≤ a.x1 ∧ a.x1 < width s.cfg s.orient ∧ a.y0 ≤ a.y1 ∧ a.y1 < height s.cfg s.orient then
          { s.completed .setWindow (panelSession (windowEvents s.cfg a.x0 a.y0 a.x1 a.y1)) with
            status := { s.status with winopen := true, done := true } }
        else s.completed .setWindow []

/-- STREAM (rules R156, R282): N words of FG when a window is open; otherwise ESEQ and no event. -/
def Obligations.StreamCompletes : Prop :=
  ∀ s : State, s.atRest → s.status.ready = true →
    ∃ t, exec .stream s = .next t ∧ t.busy = true ∧
      t.settle =
        if s.status.winopen then s.completed .stream (panelSession (wordsEvents s.arg.count s.arg.fg))
        else { s.completed .stream [] with status := { s.status with eseq := true, done := true } }

/-- SET_PIXEL (rules R145, R159): thirteen panel bytes and WINOPEN when the pixel is on the panel; otherwise no event
and nothing but DONE. -/
def Obligations.SetPixelCompletes : Prop :=
  ∀ s : State, s.atRest → s.status.ready = true →
    let a := s.arg
    ∃ t, exec .setPixel s = .next t ∧ t.busy = true ∧
      t.settle =
        if a.x0 < width s.cfg s.orient ∧ a.y0 < height s.cfg s.orient then
          { s.completed .setPixel
              (panelSession (windowEvents s.cfg a.x0 a.y0 a.x0 a.y0 ++ wordEvents a.fg)) with
            status := { s.status with winopen := true, done := true } }
        else s.completed .setPixel []

/-- FILL_AREA (rules R146, R162): one window and a word for every pixel of it; an area that is off the panel or
reversed is dropped whole. -/
def Obligations.FillAreaCompletes : Prop :=
  ∀ s : State, s.atRest → s.status.ready = true →
    let a := s.arg
    ∃ t, exec .fillArea s = .next t ∧ t.busy = true ∧
      t.settle =
        if a.x0 ≤ a.x1 ∧ a.x1 < width s.cfg s.orient ∧ a.y0 ≤ a.y1 ∧ a.y1 < height s.cfg s.orient then
          { s.completed .fillArea (panelSession (windowEvents s.cfg a.x0 a.y0 a.x1 a.y1 ++
              wordsEvents ((a.x1 - a.x0 + 1) * (a.y1 - a.y0 + 1)) a.fg)) with
            status := { s.status with winopen := true, done := true } }
        else s.completed .fillArea []

/-- CLEAR (rule R165): the whole panel of the current orientation, W · H words of FG; DIRTY to 0 and WINOPEN to 1. -/
def Obligations.ClearCompletes : Prop :=
  ∀ s : State, s.atRest → s.status.ready = true → s.cfg.wf = true →
    let w := width s.cfg s.orient
    let h := height s.cfg s.orient
    ∃ t, exec .clear s = .next t ∧ t.busy = true ∧
      t.settle =
        { s.completed .clear (panelSession (windowEvents s.cfg 0 0 (w - 1) (h - 1) ++
            wordsEvents (w * h) s.arg.fg)) with
          status := { s.status with dirty := false, winopen := true, done := true } }

/-- DRAW_POINT (rules R180, R182, R200): nothing when the anchor is off the panel; else one PIXEL for every footprint
pixel on the panel, rows top to bottom; WINOPEN when a pixel was written. -/
def Obligations.DrawPointCompletes : Prop :=
  ∀ (s : State) (sz : Nat) (ds : DotStyle), s.atRest → s.status.ready = true → 1 ≤ sz → sz ≤ 8 →
    let a := s.arg
    let pixels := (footprint a.x0 a.y0 sz ds).filter fun p => inBounds s.cfg s.orient p.1 p.2
    ∃ t, exec (.drawPoint sz ds) s = .next t ∧ t.busy = true ∧
      t.settle =
        if a.x0 < width s.cfg s.orient ∧ a.y0 < height s.cfg s.orient then
          { s.completed (.drawPoint sz ds) (panelSession (pixels.flatMap fun p =>
              windowEvents s.cfg p.1 p.2 p.1 p.2 ++ wordEvents a.fg)) with
            status := { s.status with winopen := true, done := true } }
        else s.completed (.drawPoint sz ds) []

/-- LINE as rules R183 and R185 write it: a solid line with exactly one axis equal is one band of `size` pixels across,
its far sides clipped to the panel, and nothing when that leaves nothing; every other line is BRES. -/
def lineByRule (c : Config) (o : Orientation) (x0 y0 x1 y1 : Int) (fg bg : Half) (size : Int) (ls : LineStyle)
    (ds : DotStyle) : List Draw :=
  let clipX : Int := (width c o : Int) - 1
  let clipY : Int := (height c o : Int) - 1
  if ls = .solid ∧ y0 = y1 ∧ x0 ≠ x1 then
    if min x0 x1 ≤ clipX ∧ y0 ≤ clipY ∧ 1 ≤ size then
      [.fill (min x0 x1) y0 (min (max x0 x1) clipX) (min (y0 + size - 1) clipY) fg]
    else []
  else if ls = .solid ∧ x0 = x1 ∧ y0 ≠ y1 then
    if x0 ≤ clipX ∧ 1 ≤ size ∧ min y0 y1 ≤ clipY then
      [.fill x0 (min y0 y1) (min (x0 + size - 1) clipX) (min (max y0 y1) clipY) fg]
    else []
  else bres c o x0 y0 x1 y1 fg bg size ls ds

/-- DRAW_LINE (rules R183, R184, R185, R203): the drawing steps of LINE on the endpoints as given, or with each axis put
in order first when LINE_AXIS_SWAP is true: one clipped band for a solid horizontal or vertical line, and BRES for every
other line; WINOPEN when any of them shows. That DOTCNT holds what the line leaves it at is
the model's choice (log entry 18: rule R43 says its value between commands is never observed). -/
def Obligations.DrawLineCompletes : Prop :=
  ∀ (s : State) (sz : Nat) (ls : LineStyle) (ds : DotStyle),
    s.atRest → s.status.ready = true → 1 ≤ sz → sz ≤ 8 →
    let a := s.arg
    let sw := s.cfg.lineAxisSwap
    let x0 : Int := if sw = true ∧ a.x1 < a.x0 then a.x1 else a.x0
    let x1 : Int := if sw = true ∧ a.x1 < a.x0 then a.x0 else a.x1
    let y0 : Int := if sw = true ∧ a.y1 < a.y0 then a.y1 else a.y0
    let y1 : Int := if sw = true ∧ a.y1 < a.y0 then a.y0 else a.y1
    let steps := lineByRule s.cfg s.orient x0 y0 x1 y1 a.fg a.bg sz ls ds
    ∃ t, exec (.drawLine sz ls ds) s = .next t ∧ t.busy = true ∧
      t.settle =
        { s.completed (.drawLine sz ls ds) (panelSession (drawEvents s.cfg s.orient steps)) with
          status := { s.status with
            winopen := s.status.winopen || steps.any (Draw.shown s.cfg s.orient), done := true }
          dotcnt := lineDotcnt x0 y0 x1 y1 ls }

/-- DRAW_RECT (rules R196, R197, R198, R206): corners put in order; filled, one FILL that is dropped whole when a
corner is off the panel; stroked, the four lines top, left, right, bottom, each extended by SZ at its far end. DOTCNT
is the model's choice (log entry 18). -/
def Obligations.DrawRectCompletes : Prop :=
  ∀ (s : State) (sz : Nat) (ls : LineStyle) (fl : FillStyle) (ds : DotStyle),
    s.atRest → s.status.ready = true → 1 ≤ sz → sz ≤ 8 →
    let a := s.arg
    let xa : Int := min a.x0 a.x1
    let xb : Int := max a.x0 a.x1
    let ya : Int := min a.y0 a.y1
    let yb : Int := max a.y0 a.y1
    let edge := fun (x0 y0 x1 y1 : Int) => lineByRule s.cfg s.orient x0 y0 x1 y1 a.fg a.bg sz ls ds
    let steps := match fl with
      | .filled => [Draw.fill xa ya xb yb a.fg]
      | .stroked => edge xa ya (xb + sz) ya ++ edge xa ya xa (yb + sz) ++ edge xb ya xb (yb + sz) ++
          edge xa yb (xb + sz) yb
    ∃ t, exec (.drawRect sz ls fl ds) s = .next t ∧ t.busy = true ∧
      t.settle =
        { s.completed (.drawRect sz ls fl ds) (panelSession (drawEvents s.cfg s.orient steps)) with
          status := { s.status with
            winopen := s.status.winopen || steps.any (Draw.shown s.cfg s.orient), done := true }
          dotcnt := match fl with
            | .filled => s.dotcnt
            | .stroked => lineDotcnt xa yb (xb + sz) yb ls }

/-- DRAW_CIRCLE (rules R199, R210): for each step of the midpoint loop the eight symmetric points, as stamps of the
command's size and style when stroked, and as single pixels for every value of the span when filled. -/
def Obligations.DrawCircleCompletes : Prop :=
  ∀ (s : State) (sz : Nat) (fl : FillStyle) (ds : DotStyle),
    s.atRest → s.status.ready = true → 1 ≤ sz → sz ≤ 8 →
    let a := s.arg
    let xc : Int := a.x0
    let yc : Int := a.y0
    let eight := fun x y : Int =>
      [(xc + x, yc + y), (xc - x, yc + y), (xc - y, yc + x), (xc - y, yc - x),
       (xc - x, yc - y), (xc + x, yc - y), (xc + y, yc - x), (xc + y, yc + x)]
    let steps := (circleSteps a.radius).flatMap fun q =>
      match fl with
      | .stroked => (eight q.1 q.2).flatMap fun p => stamp s.cfg s.orient p.1 p.2 a.fg sz ds
      | .filled => (span q.1 q.2).flatMap fun k => (eight q.1 k).map fun p => Draw.pixel p.1 p.2 a.fg
    ∃ t, exec (.drawCircle sz fl ds) s = .next t ∧ t.busy = true ∧
      t.settle =
        { s.completed (.drawCircle sz fl ds) (panelSession (drawEvents s.cfg s.orient steps)) with
          status := { s.status with
            winopen := s.status.winopen || steps.any (Draw.shown s.cfg s.orient), done := true } }

/-- TOUCH_RAW (rules R231, R232, R236): one TOUCH session with one raw sample, X first; TRAW holds it, TVALID and
WINOPEN go to 0. For every draw: the four bytes are those State gives, as far as it gives any, and free otherwise (log entry 5). -/
def Obligations.TouchRawCompletes : Prop :=
  ∀ s : State, s.atRest →
    ∃ (t : State) (q : RawBytes), exec .touchRaw s = .next t ∧ t.busy = true ∧
      q.toList.take s.touchIn.length = s.touchIn.take 4 ∧
      t.settle =
        { s.completed .touchRaw (touchSession (rawEvents s.cfg q)) with
          status := { s.status with tvalid := false, winopen := false, done := true }
          traw := packRaw q.sample
          touchIn := s.touchIn.drop 4 }

/-- TOUCH_AVG (rules R233, R239): TOUCH_N raw samples in one TOUCH session with the inter-sample waits; TRAW holds
their outlier-rejecting average, TVALID and WINOPEN go to 0. -/
def Obligations.TouchAvgCompletes : Prop :=
  ∀ s : State, s.atRest → s.cfg.wf = true →
    ∃ (t : State) (qs : List RawBytes), exec .touchAvg s = .next t ∧ t.busy = true ∧
      qs.length = s.cfg.touchN ∧ (bytesOf qs).take s.touchIn.length = s.touchIn.take (4 * s.cfg.touchN) ∧
      t.settle =
        { s.completed .touchAvg (touchSession (avgEvents s.cfg qs)) with
          status := { s.status with tvalid := false, winopen := false, done := true }
          traw := packRaw (averageOf s.cfg qs)
          touchIn := s.touchIn.drop (4 * s.cfg.touchN) }

/-- TOUCH_TWICE (rules R235, R241): two averages back to back, both always taken; when they differ by at most TOUCH_TOL
on both axes, TRAW holds their mean, rounded down, and TVALID is 1; otherwise TRAW is unchanged and TVALID is 0, without an error. -/
def Obligations.TouchTwiceCompletes : Prop :=
  ∀ s : State, s.atRest → s.cfg.wf = true →
    ∃ (t : State) (ps qs : List RawBytes), exec .touchTwice s = .next t ∧ t.busy = true ∧
      ps.length = s.cfg.touchN ∧ qs.length = s.cfg.touchN ∧
      (bytesOf (ps ++ qs)).take s.touchIn.length = s.touchIn.take (8 * s.cfg.touchN) ∧
      let p := averageOf s.cfg ps
      let q := averageOf s.cfg qs
      let ok : Bool := decide (|(p.1 : Int) - q.1| ≤ s.cfg.touchTol ∧ |(p.2 : Int) - q.2| ≤ s.cfg.touchTol)
      t.settle =
        { s.completed .touchTwice (touchSession (avgEvents s.cfg ps ++ avgEvents s.cfg qs)) with
          status := { s.status with tvalid := ok, winopen := false, done := true }
          traw := if ok then packRaw ((p.1 + q.1) / 2, (p.2 + q.2) / 2) else s.traw
          touchIn := s.touchIn.drop (8 * s.cfg.touchN) }

/-- What a TOUCH_SCAN leaves when it takes its samples `ps` and `qs` after the events `es` (rule R244): without
agreement nothing but TVALID, PRESSED and WINOPEN at 0; with it a press, TRAW with the mean, and the transform's result.
Agreement and mean are those of rule R235. -/
def scanOutcome (s u : State) (ps qs : List RawBytes) : State :=
  let p := averageOf s.cfg ps
  let q := averageOf s.cfg qs
  let m := ((p.1 + q.1) / 2, (p.2 + q.2) / 2)
  if |(p.1 : Int) - q.1| ≤ s.cfg.touchTol ∧ |(p.2 : Int) - q.2| ≤ s.cfg.touchTol then
    let st := { s.status with
      tvalid := true, pressed := true, winopen := false, done := true
      justp := s.status.justp || !s.status.pressed }
    match s.xform m.1 m.2 with
    | .ok sx sy => { u with status := st, traw := packRaw m, tsx := sx, tsy := sy }
    | .unsupported => { u with status := { st with unsup := true }, traw := packRaw m }
    | .unrepresentable => { u with status := { st with maperr := true }, traw := packRaw m }
  else
    { u with status := { s.status with tvalid := false, pressed := false, winopen := false, done := true } }

/-- TOUCH_SCAN without pen detection (rule R244): the two averages, the press they make when they agree, the rising
edge JUSTP, and the transform of the mean; a press that cannot be mapped is still a press. -/
def Obligations.TouchScanCompletes : Prop :=
  ∀ s : State, s.atRest → s.cfg.wf = true → s.cfg.penDetect = false →
    ∃ (t : State) (ps qs : List RawBytes), exec .touchScan s = .next t ∧ t.busy = true ∧
      ps.length = s.cfg.touchN ∧ qs.length = s.cfg.touchN ∧
      (bytesOf (ps ++ qs)).take s.touchIn.length = s.touchIn.take (8 * s.cfg.touchN) ∧
      t.settle = scanOutcome s
        { s.completed .touchScan (touchSession (avgEvents s.cfg ps ++ avgEvents s.cfg qs)) with
          touchIn := s.touchIn.drop (8 * s.cfg.touchN) } ps qs

/-- TOUCH_SCAN with pen detection (rules R243, R244, R245): one PEN event first; UP ends the scan with no session, no
sample and no press; DOWN lets it go on. The level is the one State gives, or free (log entry 5). -/
def Obligations.TouchScanWithPenCompletes : Prop :=
  ∀ s : State, s.atRest → s.cfg.wf = true → s.cfg.penDetect = true →
    ∃ (t : State) (level : Pen), exec .touchScan s = .next t ∧ t.busy = true ∧
      (∀ l ∈ s.penIn.head?, level = l) ∧
      match level with
      | .up =>
        t.settle =
          { s.completed .touchScan [.pen .up] with
            status := { s.status with tvalid := false, pressed := false, winopen := false, done := true }
            penIn := s.penIn.tail }
      | .down =>
        ∃ ps qs : List RawBytes, ps.length = s.cfg.touchN ∧ qs.length = s.cfg.touchN ∧
          (bytesOf (ps ++ qs)).take s.touchIn.length = s.touchIn.take (8 * s.cfg.touchN) ∧
          t.settle = scanOutcome s
            { s.completed .touchScan
                (.pen .down :: touchSession (avgEvents s.cfg ps ++ avgEvents s.cfg qs)) with
              penIn := s.penIn.tail
              touchIn := s.touchIn.drop (8 * s.cfg.touchN) } ps qs

/-- MAP (rules R260, R263, R269, R270): no event; refused with UNSUP exactly when the orientation has no formula or its
bank is not valid, MAPERR when a result is not representable, else TSX and TSY together, from the bank of the
current orientation. -/
def Obligations.MapCompletes : Prop :=
  ∀ s : State, s.atRest →
    let a := s.arg
    let o := s.orient
    let row := entry s.cfg.orientMap o
    let bank := entry s.cal o
    let rawX := if row.swap then a.y0 else a.x0
    let rawY := if row.swap then a.x0 else a.y0
    let value := fun (neg : Bool) (fac off : Word) (dim raw : Nat) =>
      let prod := f32mul (F32.ofBits fac) (f32 raw)
      if neg then f32sub (f32sub (f32 dim) prod) (F32.ofBits off) else f32add prod (F32.ofBits off)
    ∃ t, exec .map s = .next t ∧ t.busy = true ∧
      t.settle =
        if row.supported = false ∨ s.calValid.getLsbD o.toNat = false then
          { s.completed .map [] with status := { s.status with unsup := true, done := true } }
        else
          match truncS32 (value row.negX bank.xfac bank.xoff (width s.cfg o) rawX),
                truncS32 (value row.negY bank.yfac bank.yoff (height s.cfg o) rawY) with
          | some ix, some iy => { s.completed .map [] with tsx := ix, tsy := iy }
          | _, _ => { s.completed .map [] with status := { s.status with maperr := true, done := true } }

/-! ### The engine between acceptance and commit -/

/-- Every command terminates (rules R338, R292): from every state the engine is idle after at most the steps
`stepsLeft` counts, with DONE set if a command ran, and a machine whose host does nothing runs to that state. -/
def Obligations.EveryCommandCommits : Prop :=
  ∀ s : State, s.settle.busy = false ∧ (s.busy = true → s.settle.status.done = true) ∧
    (s.inputs = [] → Host.Core.run core s.stepsLeft s = .next s.settle)

/-- Rule R324 at the model's pace. Whatever the host does in a step after which the command still runs, GEOM, ORIENT,
TRAW, TSX, TSY and STATUS bits 1 to 5 are as before. Whenever the engine steps with no write beside it (an engine input,
no input left, under POLL, or in the cycle of a read), a command with events left makes one and no register changes, and
one with none left commits: no event, BUSY to 0 and DONE to 1; a read in that cycle returns the value from before it.
That a step makes exactly one event and that the commit is a step of its own is the model's choice (log entry 9, DESIGN
CHOICE), and so is the read's place before the engine's step (log entry 10, DEDUCED; log entry 24 for POLL). -/
def Obligations.ResultsAppearAtCommit : Prop :=
  ∀ (s : State) (r : Running), s.engine = .run r →
    let reads : Nat → Prop := fun off =>
      (s.inputs.head? = some .poll ∧ off = 4) ∨
      (s.inputs.head? = some (.access (.read off 4) true) ∧ off % 4 = 0 ∧ off < 0x80)
    (∀ t, step s = .next t → t.busy = true →
      (∀ reg ∈ ([.geom, .orient, .traw, .tsx, .tsy] : List HostReg), t.readReg reg = s.readReg reg) ∧
      ∀ k, 1 ≤ k → k ≤ 5 → (t.readReg .status).getLsbD k = (s.readReg .status).getLsbD k) ∧
    (s.inputs = [] ∨ s.inputs.head? = some .engine ∨ (∃ off, reads off) →
      ∃ t, step s = .next t ∧
        (r.todo ≠ [] → t.busy = true ∧ (∀ reg, t.readReg reg = s.readReg reg) ∧ t.cal = s.cal ∧
          ∃ e, t.log = s.log ++ [e]) ∧
        (r.todo = [] → t.busy = false ∧ t.status.done = true ∧ t.arg = s.arg ∧ t.cal = s.cal ∧ t.log = s.log ∧
          t.pins = s.pins) ∧
        ∀ off, reads off → ∃ reg, registerAt off 4 = some reg ∧ t.reads = s.reads ++ [⟨off, s.readReg reg⟩])

/-- A step of an idle machine adds nothing to the log, and a running command is replaced by no other one (rules R76, R93,
R333). In a step it is aborted by a reset input; or, with no event left, it commits: ENG idle and DONE set; or it waits,
nothing of it changed; or it makes the first of its events, which is the one event the log gains, and has exactly the
rest still to make (only CLOSE after PEN(UP)). Neither the abort nor the commit adds an event, so the engine never goes
idle with an event left but by block reset. That a step makes at most one event is the model's choice (log entry 9,
DESIGN CHOICE). -/
def Obligations.EventsOfCommandsNeverInterleave : Prop :=
  ∀ s t : State, step s = .next t →
    (s.busy = false → t.log = s.log) ∧
    ∀ r, s.engine = .run r →
      let isReset := ∃ a, s.inputs.head? = some (.reset a)
      (isReset ∧ t.engine = .idle ∧ t.log = s.log) ∨
      (¬isReset ∧ r.todo = [] ∧ t.engine = .idle ∧ t.status.done = true ∧ t.log = s.log) ∨
      (¬isReset ∧ t.cmdl = s.cmdl ∧ t.argl = s.argl ∧
        ((t.engine = .run r ∧ t.log = s.log) ∨
          ∃ slot rest r' e, r.todo = slot :: rest ∧ t.engine = .run r' ∧ r'.cmd = r.cmd ∧ t.log = s.log ++ [e] ∧
            r'.todo = (if slot = .samplePen ∧ e = .pen .up then closeSlots s.sess else rest) ∧
            match slot with
            | .emit d => e = d
            | .receive => ∃ b, e = .trx b
            | .samplePen => ∃ l, e = .pen l))

/-- Argument preloading is safe (rule R323): while a command runs the host's writes to ARG0 to ARG3 are stored, and
what the command does and leaves is the same whatever they are. -/
def Obligations.ArgumentPreloadIsSafe : Prop :=
  ∀ s : State, s.busy = true →
    (∀ v, s.access (.write 0x0C 4 v) = .next { s with arg := { s.arg with a0 := v } } ∧
      s.access (.write 0x10 4 v) = .next { s with arg := { s.arg with a1 := v } } ∧
      s.access (.write 0x14 4 v) = .next { s with arg := { s.arg with a2 := v } } ∧
      s.access (.write 0x18 4 v) = .next { s with arg := { s.arg with a3 := v } }) ∧
    ∀ a : Args, State.settle { s with arg := a } = { s.settle with arg := a }

/-! ### The host's registers -/

/-- Every read of the register window returns the value the register map gives and changes nothing but what the host
has read (rules R51, R21 to R37); STATUS bit by bit (rule R23). -/
def Obligations.ReadsHaveNoSideEffect : Prop :=
  ∀ s : State,
    let bank := entry s.cal s.calSel
    let geom := packHalves (BitVec.ofNat 16 (height s.cfg s.orient)) (BitVec.ofNat 16 (width s.cfg s.orient))
    let st := s.status
    (∀ k, k < 32 →
      s.access (.read (4 * k) 4) = .next { s with reads := s.reads ++
        [⟨4 * k, [0x53504301, s.readReg .status, 0, s.arg.a0, s.arg.a1, s.arg.a2, s.arg.a3, geom,
          s.orient.setWidth 32, s.traw, s.tsx, s.tsy, s.calSel.setWidth 32, bank.xfac, bank.yfac, bank.xoff,
          bank.yoff, s.calValid.setWidth 32].getD k 0⟩] }) ∧
    ∀ k, (s.readReg .status).getLsbD k =
      [s.busy, st.ready, st.dirty, st.winopen, st.tvalid, st.pressed, false, false, st.done, st.ovr, st.ill,
        st.earg, st.nrdy, st.eseq, st.unsup, st.maperr, st.justp].getD k false

/-- Writes reach the register they name and nothing else: the arguments always, the calibration registers while idle
(CAL_SEL and CAL_VALID with their low bits, a field only in the bank CAL_SEL selects), and no read-only or reserved
register (rules R21, R34 to R37, R47, R73). -/
def Obligations.WritesReachTheirRegister : Prop :=
  ∀ (s : State) (v : Word),
    s.access (.write 0x0C 4 v) = .next { s with arg := { s.arg with a0 := v } } ∧
    s.access (.write 0x10 4 v) = .next { s with arg := { s.arg with a1 := v } } ∧
    s.access (.write 0x14 4 v) = .next { s with arg := { s.arg with a2 := v } } ∧
    s.access (.write 0x18 4 v) = .next { s with arg := { s.arg with a3 := v } } ∧
    (∀ off ∈ [0x00, 0x1C, 0x20, 0x24, 0x28, 0x2C], s.access (.write off 4 v) = .next s) ∧
    (∀ off, off % 4 = 0 → 0x48 ≤ off → off < 0x80 → s.access (.write off 4 v) = .next s) ∧
    (s.busy = false →
      s.access (.write 0x30 4 v) = .next { s with calSel := v.extractLsb' 0 3 } ∧
      s.access (.write 0x44 4 v) = .next { s with calValid := v.extractLsb' 0 8 } ∧
      ∀ p ∈ ([(0x34, fun b => { b with xfac := v }), (0x38, fun b => { b with yfac := v }),
          (0x3C, fun b => { b with xoff := v }), (0x40, fun b => { b with yoff := v })] :
            List (Nat × (CalBank → CalBank))),
        ∃ cal', s.access (.write p.1 4 v) = .next { s with cal := cal' } ∧
          ∀ o : BitVec 3, entry cal' o = if o = s.calSel then p.2 (entry s.cal o) else entry s.cal o)

/-- Rule R24: a write to STATUS clears the bits 8 to 16 it writes as 1 and leaves the others, on an idle machine, on a
running one, and in a cycle in which the running engine makes an event. When the running command commits in the same
cycle, a sticky bit is set afterwards exactly when the commit sets it, or it was set and not written as 1: setting wins.
That an event and the commit are steps of their own is the model's choice (log entry 9, DESIGN CHOICE). -/
def Obligations.StatusWriteClearsAndSettingWins : Prop :=
  ∀ (s : State) (v : Word) (tick : Bool) (rest : List Input), s.inputs = .access (.write 0x04 4 v) tick :: rest →
    let kept : Nat → Bool := fun k =>
      (s.readReg .status).getLsbD k && !(decide (8 ≤ k) && decide (k ≤ 16) && v.getLsbD k)
    ∃ t, step s = .next t ∧
      (tick = false ∨ s.busy = false →
        t = { s with inputs := rest, status := t.status } ∧ ∀ k, (t.readReg .status).getLsbD k = kept k) ∧
      (tick = true → ∀ r, s.engine = .run r →
        let mapped : XformResult → Prop := fun res =>
          (r.cmd = .map ∧ s.xform s.argl.x0 s.argl.y0 = res) ∨
          (r.cmd = .touchScan ∧ scanPressed s.cfg r = true ∧
            s.xform (readsMean s.cfg r.rx).1 (readsMean s.cfg r.rx).2 = res)
        let sets : Nat → Prop := fun k =>
          k = 8 ∨ (k = 13 ∧ r.cmd = .stream ∧ s.status.winopen = false) ∨ (k = 14 ∧ mapped .unsupported) ∨
          (k = 15 ∧ mapped .unrepresentable) ∨
          (k = 16 ∧ r.cmd = .touchScan ∧ scanPressed s.cfg r = true ∧ s.status.pressed = false)
        (r.todo ≠ [] →
          (∃ e, t.log = s.log ++ [e]) ∧ (∀ reg, reg ≠ .status → t.readReg reg = s.readReg reg) ∧ t.cal = s.cal ∧
          ∀ k, (t.readReg .status).getLsbD k = kept k) ∧
        (r.todo = [] → t.busy = false ∧ t.log = s.log ∧
          ∀ k, 8 ≤ k → ((t.readReg .status).getLsbD k = true ↔ sets k ∨ kept k = true)))

/-- Rule R50: while BUSY = 1 a write to a calibration register is dropped and sets OVR, and nothing else changes;
writes to ARG0 to ARG3 are not dropped. -/
def Obligations.OverrunDropsCalibrationWrites : Prop :=
  ∀ (s : State) (v : Word), s.busy = true →
    (∀ off ∈ [0x30, 0x34, 0x38, 0x3C, 0x40, 0x44],
      s.access (.write off 4 v) = .next { s with status := { s.status with ovr := true } }) ∧
    s.access (.write 0x0C 4 v) = .next { s with arg := { s.arg with a0 := v } } ∧
    s.access (.write 0x10 4 v) = .next { s with arg := { s.arg with a1 := v } } ∧
    s.access (.write 0x14 4 v) = .next { s with arg := { s.arg with a2 := v } } ∧
    s.access (.write 0x18 4 v) = .next { s with arg := { s.arg with a3 := v } }

/-- Rule R70: an access of width 4 at an aligned offset below 0x80 has a meaning, every other access is refused, and a
step stops for no other reason, in any state. -/
def Obligations.OnlyUnsupportedAccessesAreRefused : Prop :=
  (∀ (s : State) (off w : Nat) (v : Word),
    (w = 4 ∧ off % 4 = 0 ∧ off < 0x80 →
      isNext (s.access (.read off w)) = true ∧ isNext (s.access (.write off w v)) = true) ∧
    (¬(w = 4 ∧ off % 4 = 0 ∧ off < 0x80) →
      s.access (.read off w) = .refused (.busAccess off w) ∧
      s.access (.write off w v) = .refused (.busAccess off w))) ∧
  ∀ s : State, isNext (step s) =
    match s.inputs with
    | [] => true
    | i :: _ => i.supported

/-! ### Block reset -/

/-- Block reset (rules R54, R310): it sets every register, latch, session and pin to its reset value, from any state, and
the panel's image becomes unknown; the log stays. A write tried while RST_N is 0 is ignored, and a read returns the reset
value: ID, GEOM of orientation 0, and 0 for every other register. That reset makes the image of a panel it does not reach
unknown is log entry 13 (DEDUCED), and that one cycle has at most one access is log entry 26 (DEDUCED). -/
def Obligations.BlockResetValues : Prop :=
  ∀ (s : State) (a : Option Access) (rest : List Input), s.inputs = .reset a :: rest →
    (∀ acc ∈ a, ∃ off v, (acc = .read off 4 ∨ acc = .write off 4 v) ∧ off % 4 = 0 ∧ off < 0x80) →
    let geom := packHalves (BitVec.ofNat 16 s.cfg.nativeH) (BitVec.ofNat 16 s.cfg.nativeW)
    ∃ t, step s = .next t ∧ t.inputs = rest ∧
      t.readReg .id = 0x53504301 ∧ t.readReg .geom = geom ∧
      (∀ reg, reg ≠ .id → reg ≠ .geom → t.readReg reg = 0) ∧
      (∀ o : BitVec 3, entry t.cal o = ⟨0, 0, 0, 0⟩) ∧
      t.engine = .idle ∧ t.cmdl = 0 ∧ t.argl = ⟨0, 0, 0, 0⟩ ∧ t.sess = ⟨false, false⟩ ∧ t.dotcnt = 0 ∧
      t.pins = ⟨.released, .command, false, false, 0⟩ ∧
      (∀ x y, readPixel t.panel.img x y = none) ∧ t.log = s.log ∧
      (∀ off, a = some (.read off 4) →
        t.reads = s.reads ++ [⟨off, if off = 0x00 then 0x53504301 else if off = 0x1C then geom else 0⟩]) ∧
      ((∀ off, a ≠ some (.read off 4)) → t.reads = s.reads)

/-- Rule R311: a block reset while BUSY = 1 ends the command: no event is added to the log then or by any later engine
step, every register reads its reset value, no session is open, and the panel's image and address state are unknown
with its mode IDLE. -/
def Obligations.ResetAbortsTheCommand : Prop :=
  ∀ (s : State) (rest : List Input), s.inputs = .reset none :: rest → s.busy = true →
    ∃ t, step s = .next t ∧ t.log = s.log ∧ (∀ n, engineSteps n t = t) ∧
      (∀ reg, reg ≠ .id → reg ≠ .geom → t.readReg reg = 0) ∧ t.sess = ⟨false, false⟩ ∧
      t.panel = ⟨[], none, none, none, none, .idle⟩

/-! ### Rules of the whole machine -/

/-- The machine keeps its invariant (rules R9, R32, R41, R52, R77, R86): the parameters meet their constraints, the
panel's memory keeps its canonical form, the sessions fit the events still to make, TRAW holds raw codes, and no
window is open and nothing is dirty before BEGIN. -/
def Obligations.EveryStepKeepsTheInvariant : Prop :=
  ∀ s t : State, s.Inv → step s = .next t → t.Inv

/-- The state after reset meets the invariant. -/
def Obligations.ResetMeetsTheInvariant : Prop := State.reset.Inv

/-- Who may change a register, in any step from any state: ORIENT only the commit of BEGIN or SET_ORIENT, READY only
BEGIN's and back to 0 only block reset, TRAW only a touch command's, TSX and TSY only together, by a MAP or
TOUCH_SCAN whose transform succeeds, and the calibration registers only a host write while idle (rules R31, R32,
R33, R36, R47, R273, R316). -/
def Obligations.RegistersHaveOneWriter : Prop :=
  ∀ s t : State, step s = .next t →
    let wasReset := ∃ a, s.inputs.head? = some (.reset a)
    let commits : (Instr → Prop) → Prop := fun p => ∃ r, s.engine = .run r ∧ r.todo = [] ∧ p r.cmd
    (t.orient ≠ s.orient → wasReset ∨
      commits fun i => i = .setOrient t.orient ∨ ∃ bl, i = .beginPanel t.orient bl) ∧
    (t.status.ready = true → s.status.ready = false → commits fun i => ∃ o bl, i = .beginPanel o bl) ∧
    (t.status.ready = false → s.status.ready = true → wasReset) ∧
    (t.traw ≠ s.traw → wasReset ∨
      commits fun i => i ∈ ([.touchRaw, .touchAvg, .touchTwice, .touchScan] : List Instr)) ∧
    (t.tsx ≠ s.tsx ∨ t.tsy ≠ s.tsy → wasReset ∨
      commits fun i => i ∈ ([.map, .touchScan] : List Instr) ∧ ∃ rx ry, s.xform rx ry = .ok t.tsx t.tsy) ∧
    (t.calSel ≠ s.calSel ∨ t.cal ≠ s.cal ∨ t.calValid ≠ s.calValid → wasReset ∨
      s.busy = false ∧ ∃ off v tick, s.inputs.head? = some (.access (.write off 4 v) tick) ∧
        0x30 ≤ off ∧ off ≤ 0x44) ∧
    t.cfg = s.cfg

/-- Sticky bits are only ever set by commands, never cleared by them (rules R24, R49): a step that clears one is a
block reset or a STATUS write with that bit 1. -/
def Obligations.OnlyTheHostClearsStickyBits : Prop :=
  ∀ (s t : State) (k : Nat), step s = .next t → 8 ≤ k →
    (s.readReg .status).getLsbD k = true → (t.readReg .status).getLsbD k = false →
      (∃ a, s.inputs.head? = some (.reset a)) ∨
      ∃ v tick, s.inputs.head? = some (.access (.write 0x04 4 v) tick) ∧ v.getLsbD k = true

/-- Only BEGIN drives the panel reset line and the backlight (rules R83, R149, R294): it leaves PRST released and the
backlight at its level, and every other command makes no RST and no BL event and leaves both levels. -/
def Obligations.OnlyBeginDrivesResetAndBacklight : Prop :=
  ∀ (s : State) (i : Instr), s.atRest →
    ∃ t, exec i s = .next t ∧
      (∀ o bl, i = .beginPanel o bl → t.settle.pins.prst = .released ∧ t.settle.pins.bl = bl) ∧
      ((∀ o bl, i ≠ .beginPanel o bl) → t.settle.pins.prst = s.pins.prst ∧ t.settle.pins.bl = s.pins.bl ∧
        ∃ es, t.settle.log = s.log ++ es ∧ ∀ e ∈ es, (∀ l, e ≠ .rst l) ∧ ∀ v, e ≠ .bl v)

/-- A touch command, BEGIN and SET_ORIENT close the window: a STREAM directly after one sets ESEQ and sends nothing
(rules R42, R230, R331). -/
def Obligations.StreamAfterTouchIsRefused : Prop :=
  ∀ (s : State) (i : Instr), s.atRest → s.status.ready = true →
    i ∈ ([.touchRaw, .touchAvg, .touchTwice, .touchScan] : List Instr) ∨
      (∃ o, i = .setOrient o) ∨ (∃ o bl, i = .beginPanel o bl) →
    ∃ t u, exec i s = .next t ∧ t.settle.status.winopen = false ∧ exec .stream t.settle = .next u ∧
      u.settle.log = t.settle.log ∧ u.settle.status.eseq = true

/-! ### The panel's memory -/

/-- SET_WINDOW addresses the panel's window and puts its write pointer at the window's first pixel; no byte of the
frame memory changes. A dropped window changes nothing on the panel (rules R87, R88, R144, R154). -/
def Obligations.SetWindowAddressesThePanel : Prop :=
  ∀ s : State, s.atRest → s.status.ready = true → s.panel.steady = true → panelBytesDistinct s.cfg = true →
    let a := s.arg
    ∃ t, exec .setWindow s = .next t ∧
      t.settle.panel =
        if a.x0 ≤ a.x1 ∧ a.x1 < width s.cfg s.orient ∧ a.y0 ≤ a.y1 ∧ a.y1 < height s.cfg s.orient then
          { s.panel with
            xs := some (lowHalf a.a0), xe := some (lowHalf a.a1)
            ys := some (highHalf a.a0), ye := some (highHalf a.a1)
            mode := .write (some (a.x0, a.y0)) none }
        else s.panel

/-- STREAM goes on with the open window, `k0` words of which are written: its words fall on the next pixels, left to
right and top to bottom, and on no other byte; a word past the window's end makes the whole image unknown (rules
R89, R156, R330). -/
def Obligations.StreamFillsTheOpenWindow : Prop :=
  ∀ (s : State) (xs xe ys ye : Half) (k0 : Nat), s.atRest → s.status.ready = true → s.status.winopen = true →
    s.panel.xs = some xs → s.panel.xe = some xe → s.panel.ys = some ys → s.panel.ye = some ye →
    xs.toNat ≤ xe.toNat → ys.toNat ≤ ye.toNat →
    let w := xe.toNat - xs.toNat + 1
    let h := ye.toNat - ys.toNat + 1
    let n := s.arg.count
    let px := fun k => xs.toNat + k % w
    let py := fun k => ys.toNat + k / w
    k0 ≤ w * h → s.panel.mode = .write (some (px k0, py k0)) none →
    ∃ t, exec .stream s = .next t ∧
      (k0 + n ≤ w * h →
        t.settle.panel.mode = .write (some (px (k0 + n), py (k0 + n))) none ∧
        (∀ k, k0 ≤ k → k < k0 + n → readPixel t.settle.panel.img (px k) (py k) = some s.arg.fg) ∧
        ∀ a, (∀ k low, k0 ≤ k → k < k0 + n → a ≠ pixelAddr (px k) (py k) low) →
          Memory.read t.settle.panel.img a = Memory.read s.panel.img a) ∧
      (w * h < k0 + n → ∀ x y, readPixel t.settle.panel.img x y = none)

/-- The drawing commands SET_PIXEL, FILL_AREA, CLEAR, DRAW_POINT, DRAW_LINE, DRAW_RECT and DRAW_CIRCLE paint their
drawing steps: a pixel shows the colour of the last step that is on the panel and covers it, and keeps its own
otherwise; no byte that no such step stores changes (rules R89, R145, R146, R191). -/
def Obligations.DrawCommandsPaintTheirSteps : Prop :=
  ∀ (s : State) (i : Instr) (ds : List Draw), s.atRest → s.status.ready = true → s.cfg.wf = true →
    panelBytesDistinct s.cfg = true → s.panel.steady = true → drawSteps s i = some ds →
    ∃ t, exec i s = .next t ∧
      (∀ x y : Nat, x < 65536 → readPixel t.settle.panel.img x y =
        match lastShown s.cfg s.orient x y ds with
        | some d => some d.colour
        | none => readPixel s.panel.img x y) ∧
      ∀ a, (∀ d ∈ ds, d.shown s.cfg s.orient = true → ¬d.stores a) →
        Memory.read t.settle.panel.img a = Memory.read s.panel.img a

/-- CLEAR makes the whole image known, whatever the panel held and was in the middle of: every pixel of the current
orientation's panel reads FG, and DIRTY is 0 (rules R165, R321). -/
def Obligations.ClearFillsThePanel : Prop :=
  ∀ s : State, s.atRest → s.status.ready = true → s.cfg.wf = true → panelBytesDistinct s.cfg = true →
    ∃ t, exec .clear s = .next t ∧ t.settle.status.dirty = false ∧
      t.settle.image = List.replicate (height s.cfg s.orient)
        (List.replicate (width s.cfg s.orient) (some s.arg.fg))

/-- NOP, the touch commands and MAP do nothing to the panel: no byte of its memory, no address register and no mode
changes (rules R91, R140, R230, R260). -/
def Obligations.NonDrawingCommandsKeepThePanel : Prop :=
  ∀ (s : State) (i : Instr), s.atRest →
    i ∈ ([.nop, .touchRaw, .touchAvg, .touchTwice, .touchScan, .map] : List Instr) →
    ∃ t, exec i s = .next t ∧ t.settle.panel = s.panel ∧ t.settle.orient = s.orient

/-! ### The rasterizer -/

/-- Rule R181: an anchored stamp covers the size×size square at its anchor, a fill-around stamp the square of side
2·size − 1 centred on it, each pixel once, rows from top to bottom. -/
def Obligations.FootprintIsTheSquare : Prop :=
  ∀ (x y size : Int) (p : Int × Int), 1 ≤ size →
    (p ∈ footprint x y size .anchored ↔
      x ≤ p.1 ∧ p.1 ≤ x + size - 1 ∧ y ≤ p.2 ∧ p.2 ≤ y + size - 1) ∧
    (p ∈ footprint x y size .fillAround ↔
      x - (size - 1) ≤ p.1 ∧ p.1 ≤ x + (size - 1) ∧ y - (size - 1) ≤ p.2 ∧ p.2 ≤ y + (size - 1)) ∧
    ∀ ds, (footprint x y size ds).Pairwise fun a b => a.2 < b.2 ∨ (a.2 = b.2 ∧ a.1 < b.1)

/-- The Bresenham line (rules R186, R187): it starts at the first endpoint, ends exactly at the second, stamps
max(|Δx|, |Δy|) + 1 times, and each step moves either axis by at most 1. The error term starts at dx + dy; at every
point but the endpoint both tests read its double once, each that holds adds to the error and moves its axis toward the
endpoint, and it stays within [2·dy, 2·dx]. -/
def Obligations.BresenhamReachesItsEndpoint : Prop :=
  ∀ x0 y0 x1 y1 : Int,
    let pts := bresPoints x0 y0 x1 y1
    let dx := |x1 - x0|
    let dy := -|y1 - y0|
    let sx : Int := if x0 < x1 then 1 else -1
    let sy : Int := if y0 < y1 then 1 else -1
    pts.length = max (x1 - x0).natAbs (y1 - y0).natAbs + 1 ∧
    pts.head? = some (x0, y0) ∧ pts.getLast? = some (x1, y1) ∧
    (∀ (k : Nat) (p q : Int × Int), pts[k]? = some p → pts[k + 1]? = some q →
      (q.1 - p.1).natAbs ≤ 1 ∧ (q.2 - p.2).natAbs ≤ 1) ∧
    ∃ err : Nat → Int, err 0 = dx + dy ∧
      ∀ (k : Nat) (p : Int × Int), pts[k]? = some p →
        2 * dy ≤ err k ∧ err k ≤ 2 * dx ∧
        (p = (x1, y1) → pts[k + 1]? = none) ∧
        (p ≠ (x1, y1) →
          pts[k + 1]? = some (if dy ≤ 2 * err k then p.1 + sx else p.1, if 2 * err k ≤ dx then p.2 + sy else p.2) ∧
          err (k + 1) = err k + (if dy ≤ 2 * err k then dy else 0) + (if 2 * err k ≤ dx then dx else 0))

/-- Fast path and BRES agree at size 1 (rule R188): for a horizontal or vertical segment with any endpoints of the
interface, both cover exactly the segment's pixels on the panel, BRES visiting each point once and BAND using at most
one window. A solid segment of any size takes the fast path, which covers exactly the pixels on the panel of the
segment's band, `size` pixels down or to the right of it, in at most one window (rules R183, R185). -/
def Obligations.FastPathAgreesWithBresenham : Prop :=
  ∀ (c : Config) (o : Orientation) (x0 y0 x1 y1 : Nat) (fg bg : Half) (ds : DotStyle),
    (x0 = x1 ∧ y0 ≠ y1) ∨ (x0 ≠ x1 ∧ y0 = y1) →
    let covered : List Draw → Int → Int → Prop := fun steps x y =>
      ∃ d ∈ steps, d.shown c o = true ∧ d.covers x y = true
    (bresPoints x0 y0 x1 y1).Nodup ∧ (band c o x0 y0 x1 y1 fg 1).length ≤ 1 ∧
    ∀ x y : Int,
      let onSegment := inBounds c o x y = true ∧ min (x0 : Int) x1 ≤ x ∧ x ≤ max (x0 : Int) x1 ∧
        min (y0 : Int) y1 ≤ y ∧ y ≤ max (y0 : Int) y1
      (covered (band c o x0 y0 x1 y1 fg 1) x y ↔ onSegment) ∧
      (covered (bres c o x0 y0 x1 y1 fg bg 1 .solid ds) x y ↔ onSegment) ∧
      ∀ size : Nat, 1 ≤ size →
        (covered (line c o x0 y0 x1 y1 fg bg size .solid ds) x y ↔
          inBounds c o x y = true ∧ min (x0 : Int) x1 ≤ x ∧ min (y0 : Int) y1 ≤ y ∧
          x ≤ max (x0 : Int) x1 + (if x0 = x1 then (size : Int) - 1 else 0) ∧
          y ≤ max (y0 : Int) y1 + (if y0 = y1 then (size : Int) - 1 else 0)) ∧
        (line c o x0 y0 x1 y1 fg bg size .solid ds).length ≤ 1

/-- Rule R190: along a dotted line every third stamp, counted from the first endpoint, is drawn in the background
colour with the same size and style, and all others in the foreground; the counter ends at the number of stamps since
the last background one. A solid line stamps in the foreground alone. -/
def Obligations.DottedEveryThirdStamp : Prop :=
  ∀ (c : Config) (o : Orientation) (x0 y0 x1 y1 : Int) (fg bg : Half) (size : Int) (ds : DotStyle),
    (line c o x0 y0 x1 y1 fg bg size .dotted ds =
      (bresPoints x0 y0 x1 y1).zipIdx.flatMap fun p =>
        stamp c o p.1.1 p.1.2 (if (p.2 + 1) % 3 = 0 then bg else fg) size ds) ∧
    lineDotcnt x0 y0 x1 y1 .dotted = (bresPoints x0 y0 x1 y1).length % 3 ∧
    bres c o x0 y0 x1 y1 fg bg size .solid ds =
      (bresPoints x0 y0 x1 y1).flatMap fun p => stamp c o p.1 p.2 fg size ds

/-- The circle (rules R199, R211). Its loop ends within the model's bound, whatever larger bound is given; it starts at
(0, r) with error 3 − 2·r, and each step follows rule R199's test and updates until x > y. The outline is the eight
symmetric points of the steps; the outline and the filled set are unchanged by the eight reflections about the centre.
The filled set is the outline spanned row by row, and it has every row from −r to r and no other. -/
def Obligations.CirclesAreSymmetric : Prop :=
  ∀ (xc yc : Int) (r : Nat),
    (∀ n, r + 1 ≤ n → circleLoop n 0 r (3 - 2 * (r : Int)) = circleSteps r) ∧
    (∀ pts ∈ [strokedPoints xc yc r, filledPoints xc yc r], ∀ a b : Int, (xc + a, yc + b) ∈ pts →
      (xc - a, yc + b) ∈ pts ∧ (xc + a, yc - b) ∈ pts ∧ (xc + b, yc + a) ∈ pts) ∧
    (circleSteps r)[0]? = some (0, (r : Int)) ∧
    (∃ d : Nat → Int, d 0 = 3 - 2 * (r : Int) ∧
      ∀ (k : Nat) (x y : Int), (circleSteps r)[k]? = some (x, y) →
        let y' := if d k < 0 then y else y - 1
        d (k + 1) = (if d k < 0 then d k + 4 * x + 6 else d k + 4 * (x - y) + 10) ∧
        (circleSteps r)[k + 1]? = if x + 1 ≤ y' then some (x + 1, y') else none) ∧
    (∀ a b : Int, (xc + a, yc + b) ∈ strokedPoints xc yc r ↔
      ∃ q ∈ circleSteps r, (|a| = q.1 ∧ |b| = q.2) ∨ (|a| = q.2 ∧ |b| = q.1)) ∧
    (∀ a b : Int, (xc + a, yc + b) ∈ filledPoints xc yc r ↔
      ∃ left right : Int, left ≤ a ∧ a ≤ right ∧
        (xc + left, yc + b) ∈ strokedPoints xc yc r ∧ (xc + right, yc + b) ∈ strokedPoints xc yc r) ∧
    ∀ b : Int, (∃ a, (xc + a, yc + b) ∈ filledPoints xc yc r) ↔ b.natAbs ≤ r

/-! ### The touch sequencer -/

/-- Raw codes have 13 bits, kept unmasked, and TRAW holds a pair of them zero-extended, X in the low half (rules R231,
R232, R32). -/
def Obligations.RawCodesHaveThirteenBits : Prop :=
  (∀ hi lo : Byte, rawCode hi lo = (256 * hi.toNat + lo.toNat) / 8 ∧ rawCode hi lo ≤ 8191) ∧
  ∀ x y : Nat, x ≤ 8191 → y ≤ 8191 →
    (lowHalf (packRaw (x, y))).toNat = x ∧ (highHalf (packRaw (x, y))).toNat = y

/-- The outlier-rejecting average (rules R233, R234): on each axis the sum less one least and one greatest sample,
divided by N − 2 and rounded down; equal samples average to their value, the average lies between any bounds of the
samples, and their order does not matter. -/
def Obligations.AveragesLieWithinTheSamples : Prop :=
  ∀ (n : Nat) (vs : List Nat), 3 ≤ n → vs.length = n →
    (∀ v, (∀ u ∈ vs, u = v) → trimmedMean n vs = v) ∧
    (∀ lo hi, (∀ v ∈ vs, lo ≤ v ∧ v ≤ hi) → lo ≤ trimmedMean n vs ∧ trimmedMean n vs ≤ hi) ∧
    (∀ us : List Nat, us.Perm vs → trimmedMean n us = trimmedMean n vs) ∧
    (∀ lo ∈ vs, ∀ hi ∈ vs, (∀ v ∈ vs, lo ≤ v ∧ v ≤ hi) → trimmedMean n vs = (vs.sum - lo - hi) / (n - 2)) ∧
    ∀ xys : List (Nat × Nat),
      (xys.map Prod.fst = vs → (average n xys).1 = trimmedMean n vs) ∧
      (xys.map Prod.snd = vs → (average n xys).2 = trimmedMean n vs)

/-! ### The transformer's arithmetic -/

/-- The rational number `(-1)^neg · m · 2^e`. -/
def realValue (neg : Bool) (m : Nat) (e : Int) : ℚ := (if neg then -1 else 1) * m * (2 : ℚ) ^ e

/-- The operations round the exact result once (rules R266, R267): a product, sum or difference of finite values is
the rounding of its exact value, the conversion of a natural number below 2^24 is exact, and NaN, opposite infinities
and zero times infinity give NaN. -/
def Obligations.ArithmeticRoundsTheExactResult : Prop :=
  (∀ (a b : Bool) (m n : Nat) (e f : Int),
    (∃ neg k g, f32mul (.fin a m e) (.fin b n f) = roundF32 neg k g ∧
      realValue neg k g = realValue a m e * realValue b n f) ∧
    (∃ neg k g, f32add (.fin a m e) (.fin b n f) = roundF32 neg k g ∧
      realValue neg k g = realValue a m e + realValue b n f) ∧
    (∃ neg k g, f32sub (.fin a m e) (.fin b n f) = roundF32 neg k g ∧
      realValue neg k g = realValue a m e - realValue b n f)) ∧
  (∀ n, n < 2 ^ 24 → ∃ m e, f32 n = .fin false m e ∧ realValue false m e = n) ∧
  (∀ x : F32, f32mul .nan x = .nan ∧ f32mul x .nan = .nan ∧ f32add .nan x = .nan ∧ f32add x .nan = .nan ∧
    f32sub .nan x = .nan ∧ f32sub x .nan = .nan) ∧
  ∀ (a b : Bool) (e : Int), f32add (.inf a) (.inf !a) = .nan ∧ f32sub (.inf a) (.inf a) = .nan ∧
    f32mul (.inf a) (.fin b 0 e) = .nan ∧ f32mul (.fin b 0 e) (.inf a) = .nan

/-- Rounding is to the nearest binary32 value, ties to the even one, subnormals kept, and to an infinity exactly when
the magnitude is at or above the midpoint past the largest finite value (rule R267). -/
def Obligations.RoundingIsToNearestEven : Prop :=
  ∀ (neg : Bool) (m : Nat) (e : Int), m ≠ 0 →
    let v := realValue false m e
    match roundF32 neg m e with
    | .nan => False
    | .inf s => s = neg ∧ realValue false (2 ^ 25 - 1) 103 ≤ v
    | .fin s n q =>
      s = neg ∧ v < realValue false (2 ^ 25 - 1) 103 ∧ n < 2 ^ 24 ∧ -149 ≤ q ∧ q ≤ 104 ∧
      (2 ^ 23 ≤ n ∨ q = -149) ∧
      ∀ (n' : Nat) (q' : Int), n' < 2 ^ 24 → -149 ≤ q' → q' ≤ 104 →
        |realValue false n q - v| ≤ |realValue false n' q' - v| ∧
        (|realValue false n q - v| = |realValue false n' q' - v| →
          realValue false n q = realValue false n' q' ∨ n % 2 = 0)

/-- Rule R268: truncation toward zero fails exactly on a NaN, an infinity, and a value of at least 2^31 or below
-2^31; otherwise the result is the whole part. Both zeros give 0, and the two limits give their words. -/
def Obligations.TruncationIsTowardZero : Prop :=
  truncS32 .nan = none ∧ (∀ a, truncS32 (.inf a) = none) ∧
  (∀ (neg : Bool) (m : Nat) (e : Int),
    let v := realValue neg m e
    (2 ^ 31 ≤ v ∨ v < -2 ^ 31 → truncS32 (.fin neg m e) = none) ∧
    (v < 2 ^ 31 → -2 ^ 31 ≤ v → ∃ w, truncS32 (.fin neg m e) = some w ∧
      w.toInt = if 0 ≤ v then ⌊v⌋ else ⌈v⌉)) ∧
  truncS32 (F32.ofBits 0x00000000) = some 0 ∧ truncS32 (F32.ofBits 0x80000000) = some 0 ∧
  truncS32 (F32.ofBits 0xCF000000) = some 0x80000000 ∧ truncS32 (F32.ofBits 0x4EFFFFFF) = some 0x7FFFFF80

/-- The identity coefficients (rule R272): with XFAC = YFAC = 1.0, both offsets 0 and the default table, orientation 0
maps every raw pair to itself and orientation 3 to its reflection in the panel. -/
def Obligations.IdentityCoefficientsMapToThemselves : Prop :=
  ∀ (s : State) (rx ry : Nat), rx < 65536 → ry < 65536 → s.cfg.wf = true → s.cfg.orientMap = defaultOrientMap →
    s.calValid.getLsbD s.orient.toNat = true →
    entry s.cal s.orient = ⟨0x3F800000, 0x3F800000, 0x00000000, 0x00000000⟩ →
    (s.orient = 0 → s.xform rx ry = .ok (BitVec.ofNat 32 rx) (BitVec.ofNat 32 ry)) ∧
    (s.orient = 3 → s.xform rx ry =
      .ok (BitVec.ofInt 32 ((width s.cfg s.orient : Int) - rx))
        (BitVec.ofInt 32 ((height s.cfg s.orient : Int) - ry)))
end

