-- ==== Sys2Proof/Laws/Memory.lean ====
section
/-! SUPPORT. The laws of the panel's memory: a read after a write, and the canonical form, which every operation
keeps; first bytes, then pixels, then what a panel byte does. -/

namespace Sys2Proof.Machine

/-! ### Bytes -/

@[simp] theorem Memory.read_nil (a : Nat) : Memory.read [] a = none := rfl

/-- Reading the written address gives the written byte, whatever the memory. -/
@[simp] theorem Memory.read_write_same (m : Memory) (a : Nat) (b : Byte) :
    Memory.read (Memory.write m a b) a = some b := by
  induction m with
  | nil => simp [Memory.write, Memory.read]
  | cons cell m ih =>
    simp only [Memory.write]
    split
    · simp [Memory.read]
    · split
      · simp [Memory.read]
      · simp_all [Memory.read]

/-- Reading any other address gives what it gave. -/
theorem Memory.read_write_other (m : Memory) (a a' : Nat) (b : Byte) (h : a' ≠ a) :
    Memory.read (Memory.write m a b) a' = Memory.read m a' := by
  induction m with
  | nil => simp [Memory.write, Memory.read, h]
  | cons cell m ih =>
    simp only [Memory.write]
    split
    · simp [Memory.read, h]
    · split
      · rename_i hk
        subst hk
        simp [Memory.read, h]
      · simp [Memory.read, ih]

/-- A write keeps every address above a bound. -/
theorem Memory.above_write (lo : Nat) (m : Memory) (a : Nat) (b : Byte) (hlo : lo < a)
    (h : Memory.above lo m = true) : Memory.above lo (Memory.write m a b) = true := by
  induction m with
  | nil => simp [Memory.write, Memory.above, hlo]
  | cons cell m ih =>
    simp only [Memory.above, Bool.and_eq_true, decide_eq_true_eq] at h
    simp only [Memory.write]
    split
    · simp [Memory.above, hlo, h.1, h.2]
    · split
      · simp [Memory.above, hlo, h.2]
      · simp [Memory.above, h.1, ih h.2]

/-- Addresses above a bound are above a lower one. -/
theorem Memory.above_mono (lo lo' : Nat) (m : Memory) (h : lo' ≤ lo) (hm : Memory.above lo m = true) :
    Memory.above lo' m = true := by
  induction m with
  | nil => rfl
  | cons cell m ih =>
    simp only [Memory.above, Bool.and_eq_true, decide_eq_true_eq] at hm ⊢
    exact ⟨by omega, ih hm.2⟩

/-- A write keeps the canonical form. -/
theorem Memory.wf_write (m : Memory) (a : Nat) (b : Byte) (h : Memory.wf m = true) :
    Memory.wf (Memory.write m a b) = true := by
  induction m with
  | nil => simp [Memory.write, Memory.wf, Memory.above]
  | cons cell m ih =>
    simp only [Memory.wf, Bool.and_eq_true] at h
    simp only [Memory.write]
    split
    · rename_i hk
      simp [Memory.wf, Memory.above, hk, h.1, h.2, Memory.above_mono _ _ m (Nat.le_of_lt hk) h.1]
    · split
      · rename_i hk
        subst hk
        simp [Memory.wf, h.1, h.2]
      · rename_i hk hne
        have hlt : cell.1 < a := by omega
        simp [Memory.wf, Memory.above_write _ m a b hlt h.1, ih h.2]

/-! ### Pixels -/

/-- Two byte addresses of pixels are equal only for one byte of one pixel, within the interface's 16-bit columns. -/
theorem pixelAddr_inj (x y x' y' : Nat) (low low' : Bool) (hx : x < 65536) (hx' : x' < 65536) :
    pixelAddr x y low = pixelAddr x' y' low' ↔ x = x' ∧ y = y' ∧ low = low' := by
  constructor
  · intro h
    cases low <;> cases low' <;> simp only [pixelAddr, Bool.toNat_false, Bool.toNat_true] at h <;>
      first
        | exact ⟨by omega, by omega, rfl⟩
        | omega
  · rintro ⟨rfl, rfl, rfl⟩
    rfl

/-- Reading the written pixel gives the written colour. -/
@[simp] theorem readPixel_writePixel_same (m : Memory) (x y : Nat) (w : Half) :
    readPixel (writePixel m x y w) x y = some w := by
  have hne : pixelAddr x y false ≠ pixelAddr x y true := by simp [pixelAddr]
  simp only [readPixel, writePixel, Memory.read_write_same, Memory.read_write_other _ _ _ _ hne]
  congr 1
  ext i
  simp only [BitVec.getElem_append, BitVec.getElem_extractLsb']
  split
  · simp
    congr 1
  · rename_i h
    grind

/-- A byte outside a written pixel reads as before. -/
theorem read_writePixel_other (m : Memory) (x y a : Nat) (w : Half) (h : ∀ low, a ≠ pixelAddr x y low) :
    Memory.read (writePixel m x y w) a = Memory.read m a := by
  simp [writePixel, Memory.read_write_other, h]

/-- Another pixel reads as before, within the interface's 16-bit columns. -/
theorem readPixel_writePixel_other (m : Memory) (x y x' y' : Nat) (w : Half) (hx : x < 65536) (hx' : x' < 65536)
    (h : ¬(x' = x ∧ y' = y)) : readPixel (writePixel m x y w) x' y' = readPixel m x' y' := by
  have hne : ∀ low low', pixelAddr x' y' low ≠ pixelAddr x y low' := fun low low' e =>
    h ((pixelAddr_inj x' y' x y low low' hx' hx).1 e |>.imp id And.left)
  simp [readPixel, read_writePixel_other, hne]

/-- Writing a pixel keeps the canonical form. -/
theorem wf_writePixel (m : Memory) (x y : Nat) (w : Half) (h : Memory.wf m = true) :
    Memory.wf (writePixel m x y w) = true := Memory.wf_write _ _ _ (Memory.wf_write _ _ _ h)

/-- An unknown image has no known pixel. -/
@[simp] theorem readPixel_nil (x y : Nat) : readPixel [] x y = none := rfl

/-! ### The panel -/

@[simp] theorem Panel.forget_img (p : Panel) : p.forget.img = [] := rfl

@[simp] theorem Panel.forget_forget (p : Panel) : p.forget.forget = p.forget := rfl

/-- A panel in no unfinished parameter list or word abandons nothing. -/
theorem Panel.abandon_steady (p : Panel) (h : p.mode = .idle ∨ ∃ q, p.mode = .write q none) : p.abandon = p := by
  rcases h with h | ⟨q, h⟩ <;> simp [Panel.abandon, h]

/-- What an unfinished parameter list or word leaves of the image: all of it or nothing. -/
theorem Panel.abandon_img (p : Panel) : p.abandon.img = p.img ∨ p.abandon.img = [] := by
  unfold Panel.abandon
  split <;> simp

/-- A command byte leaves the image as it is, or unknown. -/
theorem Panel.command_img (c : Config) (w h : Nat) (r : Byte) (p : Panel) :
    (p.command c w h r).img = p.img ∨ (p.command c w h r).img = [] := by
  have ha := p.abandon_img
  simp only [Panel.command, Panel.beginWrite]
  split
  · exact ha
  · split
    · exact ha
    · split
      · split
        · exact ha
        · exact .inr rfl
      · exact .inr rfl

/-- A word leaves the image unknown, or with one pixel written. -/
theorem Panel.word_img (hi lo : Byte) (q : Option (Nat × Nat)) (p : Panel) :
    (p.word hi lo q).img = [] ∨ ∃ x y, q = some (x, y) ∧ (p.word hi lo q).img = writePixel p.img x y (hi ++ lo) := by
  unfold Panel.word
  split
  · rename_i q xs xe ye _ _ _
    split
    · exact .inl rfl
    · exact .inr ⟨q.1, q.2, rfl, rfl⟩
  · exact .inl rfl

/-- A data byte leaves the image as it is, unknown, or with one pixel written. -/
theorem Panel.data_img (b : Byte) (p : Panel) :
    (p.data b).img = p.img ∨ (p.data b).img = [] ∨ ∃ x y w, (p.data b).img = writePixel p.img x y w := by
  unfold Panel.data
  split
  · exact .inl rfl
  · exact .inl rfl
  · exact .inl rfl
  · exact .inl rfl
  · exact .inl rfl
  · exact .inl rfl
  · rename_i q hi _
    rcases p.word_img hi b q with h | ⟨x, y, _, h⟩
    · exact .inr (.inl h)
    · exact .inr (.inr ⟨x, y, _, h⟩)

/-- Every event keeps the canonical form of the panel's memory. -/
theorem Panel.wf_after (c : Config) (w h : Nat) (e : Event) (p : Panel) (hp : Memory.wf p.img = true) :
    Memory.wf (p.after c w h e).img = true := by
  cases e with
  | ptx dc b =>
    cases dc with
    | command =>
      rcases p.command_img c w h b with he | he <;> simp [Panel.after, he, hp, Memory.wf]
    | data =>
      rcases p.data_img b with he | he | ⟨x, y, v, he⟩ <;>
        simp [Panel.after, he, hp, Memory.wf, wf_writePixel]
  | rst l => rfl
  | opened d r => exact hp
  | closed d => exact hp
  | ttx b => exact hp
  | trx b => exact hp
  | wait t => exact hp
  | bl v => exact hp
  | pen l => exact hp

/-- A block reset keeps the canonical form of the panel's memory. -/
theorem Panel.wf_afterReset (busy : Bool) (p : Panel) : Memory.wf (p.afterReset busy).img = true := by
  cases busy <;> rfl

/-- The memory of the reset state has the canonical form. -/
theorem reset_memory_wf : Memory.wf State.reset.panel.img = true := rfl

/-- Only panel bytes and RST events change the panel (rule R91). -/
theorem Panel.after_other (c : Config) (w h : Nat) (e : Event) (p : Panel) (hr : ∀ l, e ≠ .rst l)
    (hp : ∀ dc b, e ≠ .ptx dc b) : p.after c w h e = p := by
  cases e with
  | rst l => exact absurd rfl (hr l)
  | ptx dc b => exact absurd rfl (hp dc b)
  | opened d r => rfl
  | closed d => rfl
  | ttx b => rfl
  | trx b => rfl
  | wait t => rfl
  | bl v => rfl
  | pen l => rfl

end Sys2Proof.Machine
end

