-- ==== Sys2Proof/Laws/State.lean ====
section
/-! SUPPORT. For every named update of the state, what each field is afterwards. A field the update does not write is
the field it was. No later proof unfolds one of these updates. -/

namespace Sys2Proof.Machine

/-! ### One event -/
@[simp] theorem State.performEvent_status (e : Event) (s : State) : (s.performEvent e).status = s.status := rfl
@[simp] theorem State.performEvent_arg (e : Event) (s : State) : (s.performEvent e).arg = s.arg := rfl
@[simp] theorem State.performEvent_orient (e : Event) (s : State) : (s.performEvent e).orient = s.orient := rfl
@[simp] theorem State.performEvent_traw (e : Event) (s : State) : (s.performEvent e).traw = s.traw := rfl
@[simp] theorem State.performEvent_tsx (e : Event) (s : State) : (s.performEvent e).tsx = s.tsx := rfl
@[simp] theorem State.performEvent_tsy (e : Event) (s : State) : (s.performEvent e).tsy = s.tsy := rfl
@[simp] theorem State.performEvent_calSel (e : Event) (s : State) : (s.performEvent e).calSel = s.calSel := rfl
@[simp] theorem State.performEvent_cal (e : Event) (s : State) : (s.performEvent e).cal = s.cal := rfl
@[simp] theorem State.performEvent_calValid (e : Event) (s : State) : (s.performEvent e).calValid = s.calValid := rfl
@[simp] theorem State.performEvent_engine (e : Event) (s : State) : (s.performEvent e).engine = s.engine := rfl
@[simp] theorem State.performEvent_cmdl (e : Event) (s : State) : (s.performEvent e).cmdl = s.cmdl := rfl
@[simp] theorem State.performEvent_argl (e : Event) (s : State) : (s.performEvent e).argl = s.argl := rfl
@[simp] theorem State.performEvent_sess (e : Event) (s : State) : (s.performEvent e).sess = s.sess.after e := rfl
@[simp] theorem State.performEvent_dotcnt (e : Event) (s : State) : (s.performEvent e).dotcnt = s.dotcnt := rfl
@[simp] theorem State.performEvent_pins (e : Event) (s : State) :
    (s.performEvent e).pins = s.pins.after s.draws e := rfl
@[simp] theorem State.performEvent_panel (e : Event) (s : State) :
    (s.performEvent e).panel = s.panel.after s.cfg (width s.cfg s.orient) (height s.cfg s.orient) e := rfl
@[simp] theorem State.performEvent_log (e : Event) (s : State) : (s.performEvent e).log = s.log ++ [e] := rfl
@[simp] theorem State.performEvent_reads (e : Event) (s : State) : (s.performEvent e).reads = s.reads := rfl
@[simp] theorem State.performEvent_cfg (e : Event) (s : State) : (s.performEvent e).cfg = s.cfg := rfl
@[simp] theorem State.performEvent_inputs (e : Event) (s : State) : (s.performEvent e).inputs = s.inputs := rfl
@[simp] theorem State.performEvent_touchIn (e : Event) (s : State) : (s.performEvent e).touchIn = s.touchIn := rfl
@[simp] theorem State.performEvent_penIn (e : Event) (s : State) : (s.performEvent e).penIn = s.penIn := rfl
@[simp] theorem State.performEvent_draws (e : Event) (s : State) : (s.performEvent e).draws = s.draws + 1 := rfl
@[simp] theorem State.performEvent_busy (e : Event) (s : State) : (s.performEvent e).busy = s.busy := rfl

/-! ### Acceptance: the latches -/
@[simp] theorem State.latch_status (i : Instr) (s : State) : (s.latch i).status = s.status := rfl
@[simp] theorem State.latch_arg (i : Instr) (s : State) : (s.latch i).arg = s.arg := rfl
@[simp] theorem State.latch_orient (i : Instr) (s : State) : (s.latch i).orient = s.orient := rfl
@[simp] theorem State.latch_traw (i : Instr) (s : State) : (s.latch i).traw = s.traw := rfl
@[simp] theorem State.latch_tsx (i : Instr) (s : State) : (s.latch i).tsx = s.tsx := rfl
@[simp] theorem State.latch_tsy (i : Instr) (s : State) : (s.latch i).tsy = s.tsy := rfl
@[simp] theorem State.latch_calSel (i : Instr) (s : State) : (s.latch i).calSel = s.calSel := rfl
@[simp] theorem State.latch_cal (i : Instr) (s : State) : (s.latch i).cal = s.cal := rfl
@[simp] theorem State.latch_calValid (i : Instr) (s : State) : (s.latch i).calValid = s.calValid := rfl
@[simp] theorem State.latch_engine (i : Instr) (s : State) : (s.latch i).engine = s.engine := rfl
@[simp] theorem State.latch_cmdl (i : Instr) (s : State) : (s.latch i).cmdl = encode i := rfl
@[simp] theorem State.latch_argl (i : Instr) (s : State) : (s.latch i).argl = s.arg := rfl
@[simp] theorem State.latch_sess (i : Instr) (s : State) : (s.latch i).sess = s.sess := rfl
@[simp] theorem State.latch_dotcnt (i : Instr) (s : State) : (s.latch i).dotcnt = s.dotcnt := rfl
@[simp] theorem State.latch_pins (i : Instr) (s : State) : (s.latch i).pins = s.pins := rfl
@[simp] theorem State.latch_panel (i : Instr) (s : State) : (s.latch i).panel = s.panel := rfl
@[simp] theorem State.latch_log (i : Instr) (s : State) : (s.latch i).log = s.log := rfl
@[simp] theorem State.latch_reads (i : Instr) (s : State) : (s.latch i).reads = s.reads := rfl
@[simp] theorem State.latch_cfg (i : Instr) (s : State) : (s.latch i).cfg = s.cfg := rfl
@[simp] theorem State.latch_inputs (i : Instr) (s : State) : (s.latch i).inputs = s.inputs := rfl
@[simp] theorem State.latch_touchIn (i : Instr) (s : State) : (s.latch i).touchIn = s.touchIn := rfl
@[simp] theorem State.latch_penIn (i : Instr) (s : State) : (s.latch i).penIn = s.penIn := rfl
@[simp] theorem State.latch_draws (i : Instr) (s : State) : (s.latch i).draws = s.draws := rfl
@[simp] theorem State.latch_busy (i : Instr) (s : State) : (s.latch i).busy = s.busy := rfl

/-! ### ENG alone -/
@[simp] theorem State.setEngine_status (g : Engine) (s : State) : (s.setEngine g).status = s.status := rfl
@[simp] theorem State.setEngine_arg (g : Engine) (s : State) : (s.setEngine g).arg = s.arg := rfl
@[simp] theorem State.setEngine_orient (g : Engine) (s : State) : (s.setEngine g).orient = s.orient := rfl
@[simp] theorem State.setEngine_traw (g : Engine) (s : State) : (s.setEngine g).traw = s.traw := rfl
@[simp] theorem State.setEngine_tsx (g : Engine) (s : State) : (s.setEngine g).tsx = s.tsx := rfl
@[simp] theorem State.setEngine_tsy (g : Engine) (s : State) : (s.setEngine g).tsy = s.tsy := rfl
@[simp] theorem State.setEngine_calSel (g : Engine) (s : State) : (s.setEngine g).calSel = s.calSel := rfl
@[simp] theorem State.setEngine_cal (g : Engine) (s : State) : (s.setEngine g).cal = s.cal := rfl
@[simp] theorem State.setEngine_calValid (g : Engine) (s : State) : (s.setEngine g).calValid = s.calValid := rfl
@[simp] theorem State.setEngine_engine (g : Engine) (s : State) : (s.setEngine g).engine = g := rfl
@[simp] theorem State.setEngine_cmdl (g : Engine) (s : State) : (s.setEngine g).cmdl = s.cmdl := rfl
@[simp] theorem State.setEngine_argl (g : Engine) (s : State) : (s.setEngine g).argl = s.argl := rfl
@[simp] theorem State.setEngine_sess (g : Engine) (s : State) : (s.setEngine g).sess = s.sess := rfl
@[simp] theorem State.setEngine_dotcnt (g : Engine) (s : State) : (s.setEngine g).dotcnt = s.dotcnt := rfl
@[simp] theorem State.setEngine_pins (g : Engine) (s : State) : (s.setEngine g).pins = s.pins := rfl
@[simp] theorem State.setEngine_panel (g : Engine) (s : State) : (s.setEngine g).panel = s.panel := rfl
@[simp] theorem State.setEngine_log (g : Engine) (s : State) : (s.setEngine g).log = s.log := rfl
@[simp] theorem State.setEngine_reads (g : Engine) (s : State) : (s.setEngine g).reads = s.reads := rfl
@[simp] theorem State.setEngine_cfg (g : Engine) (s : State) : (s.setEngine g).cfg = s.cfg := rfl
@[simp] theorem State.setEngine_inputs (g : Engine) (s : State) : (s.setEngine g).inputs = s.inputs := rfl
@[simp] theorem State.setEngine_touchIn (g : Engine) (s : State) : (s.setEngine g).touchIn = s.touchIn := rfl
@[simp] theorem State.setEngine_penIn (g : Engine) (s : State) : (s.setEngine g).penIn = s.penIn := rfl
@[simp] theorem State.setEngine_draws (g : Engine) (s : State) : (s.setEngine g).draws = s.draws := rfl
@[simp] theorem State.setEngine_setEngine (g h : Engine) (s : State) : (s.setEngine g).setEngine h = s.setEngine h := rfl
@[simp] theorem State.performEvent_setEngine (g : Engine) (e : Event) (s : State) :
    (s.setEngine g).performEvent e = (s.performEvent e).setEngine g := rfl
@[simp] theorem State.setEngine_self (s : State) : s.setEngine s.engine = s := rfl

/-! ### Acceptance: the start -/
@[simp] theorem State.start_status (i : Instr) (acts : List Act) (s : State) :
    (s.start i acts).status = s.status := rfl
@[simp] theorem State.start_arg (i : Instr) (acts : List Act) (s : State) : (s.start i acts).arg = s.arg := rfl
@[simp] theorem State.start_orient (i : Instr) (acts : List Act) (s : State) :
    (s.start i acts).orient = s.orient := rfl
@[simp] theorem State.start_traw (i : Instr) (acts : List Act) (s : State) : (s.start i acts).traw = s.traw := rfl
@[simp] theorem State.start_tsx (i : Instr) (acts : List Act) (s : State) : (s.start i acts).tsx = s.tsx := rfl
@[simp] theorem State.start_tsy (i : Instr) (acts : List Act) (s : State) : (s.start i acts).tsy = s.tsy := rfl
@[simp] theorem State.start_calSel (i : Instr) (acts : List Act) (s : State) :
    (s.start i acts).calSel = s.calSel := rfl
@[simp] theorem State.start_cal (i : Instr) (acts : List Act) (s : State) : (s.start i acts).cal = s.cal := rfl
@[simp] theorem State.start_calValid (i : Instr) (acts : List Act) (s : State) :
    (s.start i acts).calValid = s.calValid := rfl
@[simp] theorem State.start_engine (i : Instr) (acts : List Act) (s : State) :
    (s.start i acts).engine = .run { cmd := i, todo := plan s.sess acts, rx := [], pen := none, ramwr := false } := rfl
@[simp] theorem State.start_cmdl (i : Instr) (acts : List Act) (s : State) : (s.start i acts).cmdl = s.cmdl := rfl
@[simp] theorem State.start_argl (i : Instr) (acts : List Act) (s : State) : (s.start i acts).argl = s.argl := rfl
@[simp] theorem State.start_sess (i : Instr) (acts : List Act) (s : State) : (s.start i acts).sess = s.sess := rfl
@[simp] theorem State.start_dotcnt (i : Instr) (acts : List Act) (s : State) :
    (s.start i acts).dotcnt = s.dotcnt := rfl
@[simp] theorem State.start_pins (i : Instr) (acts : List Act) (s : State) : (s.start i acts).pins = s.pins := rfl
@[simp] theorem State.start_panel (i : Instr) (acts : List Act) (s : State) : (s.start i acts).panel = s.panel := rfl
@[simp] theorem State.start_log (i : Instr) (acts : List Act) (s : State) : (s.start i acts).log = s.log := rfl
@[simp] theorem State.start_reads (i : Instr) (acts : List Act) (s : State) : (s.start i acts).reads = s.reads := rfl
@[simp] theorem State.start_cfg (i : Instr) (acts : List Act) (s : State) : (s.start i acts).cfg = s.cfg := rfl
@[simp] theorem State.start_inputs (i : Instr) (acts : List Act) (s : State) :
    (s.start i acts).inputs = s.inputs := rfl
@[simp] theorem State.start_touchIn (i : Instr) (acts : List Act) (s : State) :
    (s.start i acts).touchIn = s.touchIn := rfl
@[simp] theorem State.start_penIn (i : Instr) (acts : List Act) (s : State) : (s.start i acts).penIn = s.penIn := rfl
@[simp] theorem State.start_draws (i : Instr) (acts : List Act) (s : State) : (s.start i acts).draws = s.draws := rfl
@[simp] theorem State.start_busy (i : Instr) (acts : List Act) (s : State) : (s.start i acts).busy = true := rfl

/-! ### An overrun -/
@[simp] theorem State.overrun_status (s : State) : (s.overrun).status = { s.status with ovr := true } := rfl
@[simp] theorem State.overrun_arg (s : State) : (s.overrun).arg = s.arg := rfl
@[simp] theorem State.overrun_orient (s : State) : (s.overrun).orient = s.orient := rfl
@[simp] theorem State.overrun_traw (s : State) : (s.overrun).traw = s.traw := rfl
@[simp] theorem State.overrun_tsx (s : State) : (s.overrun).tsx = s.tsx := rfl
@[simp] theorem State.overrun_tsy (s : State) : (s.overrun).tsy = s.tsy := rfl
@[simp] theorem State.overrun_calSel (s : State) : (s.overrun).calSel = s.calSel := rfl
@[simp] theorem State.overrun_cal (s : State) : (s.overrun).cal = s.cal := rfl
@[simp] theorem State.overrun_calValid (s : State) : (s.overrun).calValid = s.calValid := rfl
@[simp] theorem State.overrun_engine (s : State) : (s.overrun).engine = s.engine := rfl
@[simp] theorem State.overrun_cmdl (s : State) : (s.overrun).cmdl = s.cmdl := rfl
@[simp] theorem State.overrun_argl (s : State) : (s.overrun).argl = s.argl := rfl
@[simp] theorem State.overrun_sess (s : State) : (s.overrun).sess = s.sess := rfl
@[simp] theorem State.overrun_dotcnt (s : State) : (s.overrun).dotcnt = s.dotcnt := rfl
@[simp] theorem State.overrun_pins (s : State) : (s.overrun).pins = s.pins := rfl
@[simp] theorem State.overrun_panel (s : State) : (s.overrun).panel = s.panel := rfl
@[simp] theorem State.overrun_log (s : State) : (s.overrun).log = s.log := rfl
@[simp] theorem State.overrun_reads (s : State) : (s.overrun).reads = s.reads := rfl
@[simp] theorem State.overrun_cfg (s : State) : (s.overrun).cfg = s.cfg := rfl
@[simp] theorem State.overrun_inputs (s : State) : (s.overrun).inputs = s.inputs := rfl
@[simp] theorem State.overrun_touchIn (s : State) : (s.overrun).touchIn = s.touchIn := rfl
@[simp] theorem State.overrun_penIn (s : State) : (s.overrun).penIn = s.penIn := rfl
@[simp] theorem State.overrun_draws (s : State) : (s.overrun).draws = s.draws := rfl
@[simp] theorem State.overrun_busy (s : State) : s.overrun.busy = s.busy := rfl

/-! ### Rejections -/
@[simp] theorem State.rejectIll_status (s : State) :
    (s.rejectIll).status = { s.status with ill := true, done := true } := rfl
@[simp] theorem State.rejectIll_arg (s : State) : (s.rejectIll).arg = s.arg := rfl
@[simp] theorem State.rejectIll_orient (s : State) : (s.rejectIll).orient = s.orient := rfl
@[simp] theorem State.rejectIll_traw (s : State) : (s.rejectIll).traw = s.traw := rfl
@[simp] theorem State.rejectIll_tsx (s : State) : (s.rejectIll).tsx = s.tsx := rfl
@[simp] theorem State.rejectIll_tsy (s : State) : (s.rejectIll).tsy = s.tsy := rfl
@[simp] theorem State.rejectIll_calSel (s : State) : (s.rejectIll).calSel = s.calSel := rfl
@[simp] theorem State.rejectIll_cal (s : State) : (s.rejectIll).cal = s.cal := rfl
@[simp] theorem State.rejectIll_calValid (s : State) : (s.rejectIll).calValid = s.calValid := rfl
@[simp] theorem State.rejectIll_engine (s : State) : (s.rejectIll).engine = s.engine := rfl
@[simp] theorem State.rejectIll_cmdl (s : State) : (s.rejectIll).cmdl = s.cmdl := rfl
@[simp] theorem State.rejectIll_argl (s : State) : (s.rejectIll).argl = s.argl := rfl
@[simp] theorem State.rejectIll_sess (s : State) : (s.rejectIll).sess = s.sess := rfl
@[simp] theorem State.rejectIll_dotcnt (s : State) : (s.rejectIll).dotcnt = s.dotcnt := rfl
@[simp] theorem State.rejectIll_pins (s : State) : (s.rejectIll).pins = s.pins := rfl
@[simp] theorem State.rejectIll_panel (s : State) : (s.rejectIll).panel = s.panel := rfl
@[simp] theorem State.rejectIll_log (s : State) : (s.rejectIll).log = s.log := rfl
@[simp] theorem State.rejectIll_reads (s : State) : (s.rejectIll).reads = s.reads := rfl
@[simp] theorem State.rejectIll_cfg (s : State) : (s.rejectIll).cfg = s.cfg := rfl
@[simp] theorem State.rejectIll_inputs (s : State) : (s.rejectIll).inputs = s.inputs := rfl
@[simp] theorem State.rejectIll_touchIn (s : State) : (s.rejectIll).touchIn = s.touchIn := rfl
@[simp] theorem State.rejectIll_penIn (s : State) : (s.rejectIll).penIn = s.penIn := rfl
@[simp] theorem State.rejectIll_draws (s : State) : (s.rejectIll).draws = s.draws := rfl
@[simp] theorem State.rejectIll_busy (s : State) : s.rejectIll.busy = s.busy := rfl

/-! ### Rejections: rejectEarg -/
@[simp] theorem State.rejectEarg_status (s : State) :
    (s.rejectEarg).status = { s.status with earg := true, done := true } := rfl
@[simp] theorem State.rejectEarg_arg (s : State) : (s.rejectEarg).arg = s.arg := rfl
@[simp] theorem State.rejectEarg_orient (s : State) : (s.rejectEarg).orient = s.orient := rfl
@[simp] theorem State.rejectEarg_traw (s : State) : (s.rejectEarg).traw = s.traw := rfl
@[simp] theorem State.rejectEarg_tsx (s : State) : (s.rejectEarg).tsx = s.tsx := rfl
@[simp] theorem State.rejectEarg_tsy (s : State) : (s.rejectEarg).tsy = s.tsy := rfl
@[simp] theorem State.rejectEarg_calSel (s : State) : (s.rejectEarg).calSel = s.calSel := rfl
@[simp] theorem State.rejectEarg_cal (s : State) : (s.rejectEarg).cal = s.cal := rfl
@[simp] theorem State.rejectEarg_calValid (s : State) : (s.rejectEarg).calValid = s.calValid := rfl
@[simp] theorem State.rejectEarg_engine (s : State) : (s.rejectEarg).engine = s.engine := rfl
@[simp] theorem State.rejectEarg_cmdl (s : State) : (s.rejectEarg).cmdl = s.cmdl := rfl
@[simp] theorem State.rejectEarg_argl (s : State) : (s.rejectEarg).argl = s.argl := rfl
@[simp] theorem State.rejectEarg_sess (s : State) : (s.rejectEarg).sess = s.sess := rfl
@[simp] theorem State.rejectEarg_dotcnt (s : State) : (s.rejectEarg).dotcnt = s.dotcnt := rfl
@[simp] theorem State.rejectEarg_pins (s : State) : (s.rejectEarg).pins = s.pins := rfl
@[simp] theorem State.rejectEarg_panel (s : State) : (s.rejectEarg).panel = s.panel := rfl
@[simp] theorem State.rejectEarg_log (s : State) : (s.rejectEarg).log = s.log := rfl
@[simp] theorem State.rejectEarg_reads (s : State) : (s.rejectEarg).reads = s.reads := rfl
@[simp] theorem State.rejectEarg_cfg (s : State) : (s.rejectEarg).cfg = s.cfg := rfl
@[simp] theorem State.rejectEarg_inputs (s : State) : (s.rejectEarg).inputs = s.inputs := rfl
@[simp] theorem State.rejectEarg_touchIn (s : State) : (s.rejectEarg).touchIn = s.touchIn := rfl
@[simp] theorem State.rejectEarg_penIn (s : State) : (s.rejectEarg).penIn = s.penIn := rfl
@[simp] theorem State.rejectEarg_draws (s : State) : (s.rejectEarg).draws = s.draws := rfl
@[simp] theorem State.rejectEarg_busy (s : State) : s.rejectEarg.busy = s.busy := rfl

/-! ### Rejections: rejectNrdy -/
@[simp] theorem State.rejectNrdy_status (s : State) :
    (s.rejectNrdy).status = { s.status with nrdy := true, done := true } := rfl
@[simp] theorem State.rejectNrdy_arg (s : State) : (s.rejectNrdy).arg = s.arg := rfl
@[simp] theorem State.rejectNrdy_orient (s : State) : (s.rejectNrdy).orient = s.orient := rfl
@[simp] theorem State.rejectNrdy_traw (s : State) : (s.rejectNrdy).traw = s.traw := rfl
@[simp] theorem State.rejectNrdy_tsx (s : State) : (s.rejectNrdy).tsx = s.tsx := rfl
@[simp] theorem State.rejectNrdy_tsy (s : State) : (s.rejectNrdy).tsy = s.tsy := rfl
@[simp] theorem State.rejectNrdy_calSel (s : State) : (s.rejectNrdy).calSel = s.calSel := rfl
@[simp] theorem State.rejectNrdy_cal (s : State) : (s.rejectNrdy).cal = s.cal := rfl
@[simp] theorem State.rejectNrdy_calValid (s : State) : (s.rejectNrdy).calValid = s.calValid := rfl
@[simp] theorem State.rejectNrdy_engine (s : State) : (s.rejectNrdy).engine = s.engine := rfl
@[simp] theorem State.rejectNrdy_cmdl (s : State) : (s.rejectNrdy).cmdl = s.cmdl := rfl
@[simp] theorem State.rejectNrdy_argl (s : State) : (s.rejectNrdy).argl = s.argl := rfl
@[simp] theorem State.rejectNrdy_sess (s : State) : (s.rejectNrdy).sess = s.sess := rfl
@[simp] theorem State.rejectNrdy_dotcnt (s : State) : (s.rejectNrdy).dotcnt = s.dotcnt := rfl
@[simp] theorem State.rejectNrdy_pins (s : State) : (s.rejectNrdy).pins = s.pins := rfl
@[simp] theorem State.rejectNrdy_panel (s : State) : (s.rejectNrdy).panel = s.panel := rfl
@[simp] theorem State.rejectNrdy_log (s : State) : (s.rejectNrdy).log = s.log := rfl
@[simp] theorem State.rejectNrdy_reads (s : State) : (s.rejectNrdy).reads = s.reads := rfl
@[simp] theorem State.rejectNrdy_cfg (s : State) : (s.rejectNrdy).cfg = s.cfg := rfl
@[simp] theorem State.rejectNrdy_inputs (s : State) : (s.rejectNrdy).inputs = s.inputs := rfl
@[simp] theorem State.rejectNrdy_touchIn (s : State) : (s.rejectNrdy).touchIn = s.touchIn := rfl
@[simp] theorem State.rejectNrdy_penIn (s : State) : (s.rejectNrdy).penIn = s.penIn := rfl
@[simp] theorem State.rejectNrdy_draws (s : State) : (s.rejectNrdy).draws = s.draws := rfl
@[simp] theorem State.rejectNrdy_busy (s : State) : s.rejectNrdy.busy = s.busy := rfl

/-! ### The end of a commit -/
@[simp] theorem State.complete_status (s : State) : (s.complete).status = { s.status with done := true } := rfl
@[simp] theorem State.complete_arg (s : State) : (s.complete).arg = s.arg := rfl
@[simp] theorem State.complete_orient (s : State) : (s.complete).orient = s.orient := rfl
@[simp] theorem State.complete_traw (s : State) : (s.complete).traw = s.traw := rfl
@[simp] theorem State.complete_tsx (s : State) : (s.complete).tsx = s.tsx := rfl
@[simp] theorem State.complete_tsy (s : State) : (s.complete).tsy = s.tsy := rfl
@[simp] theorem State.complete_calSel (s : State) : (s.complete).calSel = s.calSel := rfl
@[simp] theorem State.complete_cal (s : State) : (s.complete).cal = s.cal := rfl
@[simp] theorem State.complete_calValid (s : State) : (s.complete).calValid = s.calValid := rfl
@[simp] theorem State.complete_engine (s : State) : (s.complete).engine = .idle := rfl
@[simp] theorem State.complete_cmdl (s : State) : (s.complete).cmdl = s.cmdl := rfl
@[simp] theorem State.complete_argl (s : State) : (s.complete).argl = s.argl := rfl
@[simp] theorem State.complete_sess (s : State) : (s.complete).sess = s.sess := rfl
@[simp] theorem State.complete_dotcnt (s : State) : (s.complete).dotcnt = s.dotcnt := rfl
@[simp] theorem State.complete_pins (s : State) : (s.complete).pins = s.pins := rfl
@[simp] theorem State.complete_panel (s : State) : (s.complete).panel = s.panel := rfl
@[simp] theorem State.complete_log (s : State) : (s.complete).log = s.log := rfl
@[simp] theorem State.complete_reads (s : State) : (s.complete).reads = s.reads := rfl
@[simp] theorem State.complete_cfg (s : State) : (s.complete).cfg = s.cfg := rfl
@[simp] theorem State.complete_inputs (s : State) : (s.complete).inputs = s.inputs := rfl
@[simp] theorem State.complete_touchIn (s : State) : (s.complete).touchIn = s.touchIn := rfl
@[simp] theorem State.complete_penIn (s : State) : (s.complete).penIn = s.penIn := rfl
@[simp] theorem State.complete_draws (s : State) : (s.complete).draws = s.draws := rfl
@[simp] theorem State.complete_busy (s : State) : s.complete.busy = false := rfl

/-! ### Commit: the window bit -/
@[simp] theorem State.commitWindow_status (r : Running) (s : State) :
    (s.commitWindow r).status = { s.status with winopen := s.status.winopen || r.ramwr } := rfl
@[simp] theorem State.commitWindow_arg (r : Running) (s : State) : (s.commitWindow r).arg = s.arg := rfl
@[simp] theorem State.commitWindow_orient (r : Running) (s : State) : (s.commitWindow r).orient = s.orient := rfl
@[simp] theorem State.commitWindow_traw (r : Running) (s : State) : (s.commitWindow r).traw = s.traw := rfl
@[simp] theorem State.commitWindow_tsx (r : Running) (s : State) : (s.commitWindow r).tsx = s.tsx := rfl
@[simp] theorem State.commitWindow_tsy (r : Running) (s : State) : (s.commitWindow r).tsy = s.tsy := rfl
@[simp] theorem State.commitWindow_calSel (r : Running) (s : State) : (s.commitWindow r).calSel = s.calSel := rfl
@[simp] theorem State.commitWindow_cal (r : Running) (s : State) : (s.commitWindow r).cal = s.cal := rfl
@[simp] theorem State.commitWindow_calValid (r : Running) (s : State) :
    (s.commitWindow r).calValid = s.calValid := rfl
@[simp] theorem State.commitWindow_engine (r : Running) (s : State) : (s.commitWindow r).engine = s.engine := rfl
@[simp] theorem State.commitWindow_cmdl (r : Running) (s : State) : (s.commitWindow r).cmdl = s.cmdl := rfl
@[simp] theorem State.commitWindow_argl (r : Running) (s : State) : (s.commitWindow r).argl = s.argl := rfl
@[simp] theorem State.commitWindow_sess (r : Running) (s : State) : (s.commitWindow r).sess = s.sess := rfl
@[simp] theorem State.commitWindow_dotcnt (r : Running) (s : State) : (s.commitWindow r).dotcnt = s.dotcnt := rfl
@[simp] theorem State.commitWindow_pins (r : Running) (s : State) : (s.commitWindow r).pins = s.pins := rfl
@[simp] theorem State.commitWindow_panel (r : Running) (s : State) : (s.commitWindow r).panel = s.panel := rfl
@[simp] theorem State.commitWindow_log (r : Running) (s : State) : (s.commitWindow r).log = s.log := rfl
@[simp] theorem State.commitWindow_reads (r : Running) (s : State) : (s.commitWindow r).reads = s.reads := rfl
@[simp] theorem State.commitWindow_cfg (r : Running) (s : State) : (s.commitWindow r).cfg = s.cfg := rfl
@[simp] theorem State.commitWindow_inputs (r : Running) (s : State) : (s.commitWindow r).inputs = s.inputs := rfl
@[simp] theorem State.commitWindow_touchIn (r : Running) (s : State) : (s.commitWindow r).touchIn = s.touchIn := rfl
@[simp] theorem State.commitWindow_penIn (r : Running) (s : State) : (s.commitWindow r).penIn = s.penIn := rfl
@[simp] theorem State.commitWindow_draws (r : Running) (s : State) : (s.commitWindow r).draws = s.draws := rfl

/-! ### Commit: the orientation -/
@[simp] theorem State.commitOrient_status (o : Orientation) (s : State) :
    (s.commitOrient o).status = { s.status with dirty := true, winopen := false } := rfl
@[simp] theorem State.commitOrient_arg (o : Orientation) (s : State) : (s.commitOrient o).arg = s.arg := rfl
@[simp] theorem State.commitOrient_orient (o : Orientation) (s : State) : (s.commitOrient o).orient = o := rfl
@[simp] theorem State.commitOrient_traw (o : Orientation) (s : State) : (s.commitOrient o).traw = s.traw := rfl
@[simp] theorem State.commitOrient_tsx (o : Orientation) (s : State) : (s.commitOrient o).tsx = s.tsx := rfl
@[simp] theorem State.commitOrient_tsy (o : Orientation) (s : State) : (s.commitOrient o).tsy = s.tsy := rfl
@[simp] theorem State.commitOrient_calSel (o : Orientation) (s : State) : (s.commitOrient o).calSel = s.calSel := rfl
@[simp] theorem State.commitOrient_cal (o : Orientation) (s : State) : (s.commitOrient o).cal = s.cal := rfl
@[simp] theorem State.commitOrient_calValid (o : Orientation) (s : State) :
    (s.commitOrient o).calValid = s.calValid := rfl
@[simp] theorem State.commitOrient_engine (o : Orientation) (s : State) : (s.commitOrient o).engine = s.engine := rfl
@[simp] theorem State.commitOrient_cmdl (o : Orientation) (s : State) : (s.commitOrient o).cmdl = s.cmdl := rfl
@[simp] theorem State.commitOrient_argl (o : Orientation) (s : State) : (s.commitOrient o).argl = s.argl := rfl
@[simp] theorem State.commitOrient_sess (o : Orientation) (s : State) : (s.commitOrient o).sess = s.sess := rfl
@[simp] theorem State.commitOrient_dotcnt (o : Orientation) (s : State) : (s.commitOrient o).dotcnt = s.dotcnt := rfl
@[simp] theorem State.commitOrient_pins (o : Orientation) (s : State) : (s.commitOrient o).pins = s.pins := rfl
@[simp] theorem State.commitOrient_panel (o : Orientation) (s : State) :
    (s.commitOrient o).panel = s.panel.forget := rfl
@[simp] theorem State.commitOrient_log (o : Orientation) (s : State) : (s.commitOrient o).log = s.log := rfl
@[simp] theorem State.commitOrient_reads (o : Orientation) (s : State) : (s.commitOrient o).reads = s.reads := rfl
@[simp] theorem State.commitOrient_cfg (o : Orientation) (s : State) : (s.commitOrient o).cfg = s.cfg := rfl
@[simp] theorem State.commitOrient_inputs (o : Orientation) (s : State) : (s.commitOrient o).inputs = s.inputs := rfl
@[simp] theorem State.commitOrient_touchIn (o : Orientation) (s : State) :
    (s.commitOrient o).touchIn = s.touchIn := rfl
@[simp] theorem State.commitOrient_penIn (o : Orientation) (s : State) : (s.commitOrient o).penIn = s.penIn := rfl
@[simp] theorem State.commitOrient_draws (o : Orientation) (s : State) : (s.commitOrient o).draws = s.draws := rfl

/-! ### Commit: a touch command -/
@[simp] theorem State.commitTouch_status (valid : Bool) (s : State) :
    (s.commitTouch valid).status = { s.status with tvalid := valid, winopen := false } := rfl
@[simp] theorem State.commitTouch_arg (valid : Bool) (s : State) : (s.commitTouch valid).arg = s.arg := rfl
@[simp] theorem State.commitTouch_orient (valid : Bool) (s : State) : (s.commitTouch valid).orient = s.orient := rfl
@[simp] theorem State.commitTouch_traw (valid : Bool) (s : State) : (s.commitTouch valid).traw = s.traw := rfl
@[simp] theorem State.commitTouch_tsx (valid : Bool) (s : State) : (s.commitTouch valid).tsx = s.tsx := rfl
@[simp] theorem State.commitTouch_tsy (valid : Bool) (s : State) : (s.commitTouch valid).tsy = s.tsy := rfl
@[simp] theorem State.commitTouch_calSel (valid : Bool) (s : State) : (s.commitTouch valid).calSel = s.calSel := rfl
@[simp] theorem State.commitTouch_cal (valid : Bool) (s : State) : (s.commitTouch valid).cal = s.cal := rfl
@[simp] theorem State.commitTouch_calValid (valid : Bool) (s : State) :
    (s.commitTouch valid).calValid = s.calValid := rfl
@[simp] theorem State.commitTouch_engine (valid : Bool) (s : State) : (s.commitTouch valid).engine = s.engine := rfl
@[simp] theorem State.commitTouch_cmdl (valid : Bool) (s : State) : (s.commitTouch valid).cmdl = s.cmdl := rfl
@[simp] theorem State.commitTouch_argl (valid : Bool) (s : State) : (s.commitTouch valid).argl = s.argl := rfl
@[simp] theorem State.commitTouch_sess (valid : Bool) (s : State) : (s.commitTouch valid).sess = s.sess := rfl
@[simp] theorem State.commitTouch_dotcnt (valid : Bool) (s : State) : (s.commitTouch valid).dotcnt = s.dotcnt := rfl
@[simp] theorem State.commitTouch_pins (valid : Bool) (s : State) : (s.commitTouch valid).pins = s.pins := rfl
@[simp] theorem State.commitTouch_panel (valid : Bool) (s : State) : (s.commitTouch valid).panel = s.panel := rfl
@[simp] theorem State.commitTouch_log (valid : Bool) (s : State) : (s.commitTouch valid).log = s.log := rfl
@[simp] theorem State.commitTouch_reads (valid : Bool) (s : State) : (s.commitTouch valid).reads = s.reads := rfl
@[simp] theorem State.commitTouch_cfg (valid : Bool) (s : State) : (s.commitTouch valid).cfg = s.cfg := rfl
@[simp] theorem State.commitTouch_inputs (valid : Bool) (s : State) : (s.commitTouch valid).inputs = s.inputs := rfl
@[simp] theorem State.commitTouch_touchIn (valid : Bool) (s : State) :
    (s.commitTouch valid).touchIn = s.touchIn := rfl
@[simp] theorem State.commitTouch_penIn (valid : Bool) (s : State) : (s.commitTouch valid).penIn = s.penIn := rfl
@[simp] theorem State.commitTouch_draws (valid : Bool) (s : State) : (s.commitTouch valid).draws = s.draws := rfl

/-! ### Commit: the pressed bits -/
@[simp] theorem State.commitPressed_status (pressed : Bool) (s : State) :
    (s.commitPressed pressed).status = { s.status with justp := s.status.justp || (pressed && !s.status.pressed), pressed := pressed } := rfl
@[simp] theorem State.commitPressed_arg (pressed : Bool) (s : State) : (s.commitPressed pressed).arg = s.arg := rfl
@[simp] theorem State.commitPressed_orient (pressed : Bool) (s : State) :
    (s.commitPressed pressed).orient = s.orient := rfl
@[simp] theorem State.commitPressed_traw (pressed : Bool) (s : State) : (s.commitPressed pressed).traw = s.traw := rfl
@[simp] theorem State.commitPressed_tsx (pressed : Bool) (s : State) : (s.commitPressed pressed).tsx = s.tsx := rfl
@[simp] theorem State.commitPressed_tsy (pressed : Bool) (s : State) : (s.commitPressed pressed).tsy = s.tsy := rfl
@[simp] theorem State.commitPressed_calSel (pressed : Bool) (s : State) :
    (s.commitPressed pressed).calSel = s.calSel := rfl
@[simp] theorem State.commitPressed_cal (pressed : Bool) (s : State) : (s.commitPressed pressed).cal = s.cal := rfl
@[simp] theorem State.commitPressed_calValid (pressed : Bool) (s : State) :
    (s.commitPressed pressed).calValid = s.calValid := rfl
@[simp] theorem State.commitPressed_engine (pressed : Bool) (s : State) :
    (s.commitPressed pressed).engine = s.engine := rfl
@[simp] theorem State.commitPressed_cmdl (pressed : Bool) (s : State) : (s.commitPressed pressed).cmdl = s.cmdl := rfl
@[simp] theorem State.commitPressed_argl (pressed : Bool) (s : State) : (s.commitPressed pressed).argl = s.argl := rfl
@[simp] theorem State.commitPressed_sess (pressed : Bool) (s : State) : (s.commitPressed pressed).sess = s.sess := rfl
@[simp] theorem State.commitPressed_dotcnt (pressed : Bool) (s : State) :
    (s.commitPressed pressed).dotcnt = s.dotcnt := rfl
@[simp] theorem State.commitPressed_pins (pressed : Bool) (s : State) : (s.commitPressed pressed).pins = s.pins := rfl
@[simp] theorem State.commitPressed_panel (pressed : Bool) (s : State) :
    (s.commitPressed pressed).panel = s.panel := rfl
@[simp] theorem State.commitPressed_log (pressed : Bool) (s : State) : (s.commitPressed pressed).log = s.log := rfl
@[simp] theorem State.commitPressed_reads (pressed : Bool) (s : State) :
    (s.commitPressed pressed).reads = s.reads := rfl
@[simp] theorem State.commitPressed_cfg (pressed : Bool) (s : State) : (s.commitPressed pressed).cfg = s.cfg := rfl
@[simp] theorem State.commitPressed_inputs (pressed : Bool) (s : State) :
    (s.commitPressed pressed).inputs = s.inputs := rfl
@[simp] theorem State.commitPressed_touchIn (pressed : Bool) (s : State) :
    (s.commitPressed pressed).touchIn = s.touchIn := rfl
@[simp] theorem State.commitPressed_penIn (pressed : Bool) (s : State) :
    (s.commitPressed pressed).penIn = s.penIn := rfl
@[simp] theorem State.commitPressed_draws (pressed : Bool) (s : State) :
    (s.commitPressed pressed).draws = s.draws := rfl

/-! ### Commit: a transform's result -/
@[simp] theorem State.commitXform_arg (res : XformResult) (s : State) :
    (s.commitXform res).arg = s.arg := by cases res <;> rfl
@[simp] theorem State.commitXform_orient (res : XformResult) (s : State) :
    (s.commitXform res).orient = s.orient := by cases res <;> rfl
@[simp] theorem State.commitXform_traw (res : XformResult) (s : State) :
    (s.commitXform res).traw = s.traw := by cases res <;> rfl
@[simp] theorem State.commitXform_calSel (res : XformResult) (s : State) :
    (s.commitXform res).calSel = s.calSel := by cases res <;> rfl
@[simp] theorem State.commitXform_cal (res : XformResult) (s : State) :
    (s.commitXform res).cal = s.cal := by cases res <;> rfl
@[simp] theorem State.commitXform_calValid (res : XformResult) (s : State) :
    (s.commitXform res).calValid = s.calValid := by cases res <;> rfl
@[simp] theorem State.commitXform_engine (res : XformResult) (s : State) :
    (s.commitXform res).engine = s.engine := by cases res <;> rfl
@[simp] theorem State.commitXform_cmdl (res : XformResult) (s : State) :
    (s.commitXform res).cmdl = s.cmdl := by cases res <;> rfl
@[simp] theorem State.commitXform_argl (res : XformResult) (s : State) :
    (s.commitXform res).argl = s.argl := by cases res <;> rfl
@[simp] theorem State.commitXform_sess (res : XformResult) (s : State) :
    (s.commitXform res).sess = s.sess := by cases res <;> rfl
@[simp] theorem State.commitXform_dotcnt (res : XformResult) (s : State) :
    (s.commitXform res).dotcnt = s.dotcnt := by cases res <;> rfl
@[simp] theorem State.commitXform_pins (res : XformResult) (s : State) :
    (s.commitXform res).pins = s.pins := by cases res <;> rfl
@[simp] theorem State.commitXform_panel (res : XformResult) (s : State) :
    (s.commitXform res).panel = s.panel := by cases res <;> rfl
@[simp] theorem State.commitXform_log (res : XformResult) (s : State) :
    (s.commitXform res).log = s.log := by cases res <;> rfl
@[simp] theorem State.commitXform_reads (res : XformResult) (s : State) :
    (s.commitXform res).reads = s.reads := by cases res <;> rfl
@[simp] theorem State.commitXform_cfg (res : XformResult) (s : State) :
    (s.commitXform res).cfg = s.cfg := by cases res <;> rfl
@[simp] theorem State.commitXform_inputs (res : XformResult) (s : State) :
    (s.commitXform res).inputs = s.inputs := by cases res <;> rfl
@[simp] theorem State.commitXform_touchIn (res : XformResult) (s : State) :
    (s.commitXform res).touchIn = s.touchIn := by cases res <;> rfl
@[simp] theorem State.commitXform_penIn (res : XformResult) (s : State) :
    (s.commitXform res).penIn = s.penIn := by cases res <;> rfl
@[simp] theorem State.commitXform_draws (res : XformResult) (s : State) :
    (s.commitXform res).draws = s.draws := by cases res <;> rfl
@[simp] theorem State.commitXform_ok (sx sy : Word) (s : State) :
    s.commitXform (.ok sx sy) = { s with tsx := sx, tsy := sy } := rfl
@[simp] theorem State.commitXform_unsupported (s : State) :
    s.commitXform .unsupported = { s with status := { s.status with unsup := true } } := rfl
@[simp] theorem State.commitXform_unrepresentable (s : State) :
    s.commitXform .unrepresentable = { s with status := { s.status with maperr := true } } := rfl

/-! ### Host: a read -/
@[simp] theorem State.deliver_status (off : Nat) (v : Word) (s : State) : (s.deliver off v).status = s.status := rfl
@[simp] theorem State.deliver_arg (off : Nat) (v : Word) (s : State) : (s.deliver off v).arg = s.arg := rfl
@[simp] theorem State.deliver_orient (off : Nat) (v : Word) (s : State) : (s.deliver off v).orient = s.orient := rfl
@[simp] theorem State.deliver_traw (off : Nat) (v : Word) (s : State) : (s.deliver off v).traw = s.traw := rfl
@[simp] theorem State.deliver_tsx (off : Nat) (v : Word) (s : State) : (s.deliver off v).tsx = s.tsx := rfl
@[simp] theorem State.deliver_tsy (off : Nat) (v : Word) (s : State) : (s.deliver off v).tsy = s.tsy := rfl
@[simp] theorem State.deliver_calSel (off : Nat) (v : Word) (s : State) : (s.deliver off v).calSel = s.calSel := rfl
@[simp] theorem State.deliver_cal (off : Nat) (v : Word) (s : State) : (s.deliver off v).cal = s.cal := rfl
@[simp] theorem State.deliver_calValid (off : Nat) (v : Word) (s : State) :
    (s.deliver off v).calValid = s.calValid := rfl
@[simp] theorem State.deliver_engine (off : Nat) (v : Word) (s : State) : (s.deliver off v).engine = s.engine := rfl
@[simp] theorem State.deliver_cmdl (off : Nat) (v : Word) (s : State) : (s.deliver off v).cmdl = s.cmdl := rfl
@[simp] theorem State.deliver_argl (off : Nat) (v : Word) (s : State) : (s.deliver off v).argl = s.argl := rfl
@[simp] theorem State.deliver_sess (off : Nat) (v : Word) (s : State) : (s.deliver off v).sess = s.sess := rfl
@[simp] theorem State.deliver_dotcnt (off : Nat) (v : Word) (s : State) : (s.deliver off v).dotcnt = s.dotcnt := rfl
@[simp] theorem State.deliver_pins (off : Nat) (v : Word) (s : State) : (s.deliver off v).pins = s.pins := rfl
@[simp] theorem State.deliver_panel (off : Nat) (v : Word) (s : State) : (s.deliver off v).panel = s.panel := rfl
@[simp] theorem State.deliver_log (off : Nat) (v : Word) (s : State) : (s.deliver off v).log = s.log := rfl
@[simp] theorem State.deliver_reads (off : Nat) (v : Word) (s : State) :
    (s.deliver off v).reads = s.reads ++ [⟨off, v⟩] := rfl
@[simp] theorem State.deliver_cfg (off : Nat) (v : Word) (s : State) : (s.deliver off v).cfg = s.cfg := rfl
@[simp] theorem State.deliver_inputs (off : Nat) (v : Word) (s : State) : (s.deliver off v).inputs = s.inputs := rfl
@[simp] theorem State.deliver_touchIn (off : Nat) (v : Word) (s : State) :
    (s.deliver off v).touchIn = s.touchIn := rfl
@[simp] theorem State.deliver_penIn (off : Nat) (v : Word) (s : State) : (s.deliver off v).penIn = s.penIn := rfl
@[simp] theorem State.deliver_draws (off : Nat) (v : Word) (s : State) : (s.deliver off v).draws = s.draws := rfl
@[simp] theorem State.deliver_busy (off : Nat) (v : Word) (s : State) : (s.deliver off v).busy = s.busy := rfl

/-! ### Host: a calibration bank -/
@[simp] theorem State.updateBank_status (f : CalBank → CalBank) (s : State) :
    (s.updateBank f).status = s.status := rfl
@[simp] theorem State.updateBank_arg (f : CalBank → CalBank) (s : State) : (s.updateBank f).arg = s.arg := rfl
@[simp] theorem State.updateBank_orient (f : CalBank → CalBank) (s : State) :
    (s.updateBank f).orient = s.orient := rfl
@[simp] theorem State.updateBank_traw (f : CalBank → CalBank) (s : State) : (s.updateBank f).traw = s.traw := rfl
@[simp] theorem State.updateBank_tsx (f : CalBank → CalBank) (s : State) : (s.updateBank f).tsx = s.tsx := rfl
@[simp] theorem State.updateBank_tsy (f : CalBank → CalBank) (s : State) : (s.updateBank f).tsy = s.tsy := rfl
@[simp] theorem State.updateBank_calSel (f : CalBank → CalBank) (s : State) :
    (s.updateBank f).calSel = s.calSel := rfl
@[simp] theorem State.updateBank_cal (f : CalBank → CalBank) (s : State) :
    (s.updateBank f).cal = setEntry s.cal s.calSel (f (entry s.cal s.calSel)) := rfl
@[simp] theorem State.updateBank_calValid (f : CalBank → CalBank) (s : State) :
    (s.updateBank f).calValid = s.calValid := rfl
@[simp] theorem State.updateBank_engine (f : CalBank → CalBank) (s : State) :
    (s.updateBank f).engine = s.engine := rfl
@[simp] theorem State.updateBank_cmdl (f : CalBank → CalBank) (s : State) : (s.updateBank f).cmdl = s.cmdl := rfl
@[simp] theorem State.updateBank_argl (f : CalBank → CalBank) (s : State) : (s.updateBank f).argl = s.argl := rfl
@[simp] theorem State.updateBank_sess (f : CalBank → CalBank) (s : State) : (s.updateBank f).sess = s.sess := rfl
@[simp] theorem State.updateBank_dotcnt (f : CalBank → CalBank) (s : State) :
    (s.updateBank f).dotcnt = s.dotcnt := rfl
@[simp] theorem State.updateBank_pins (f : CalBank → CalBank) (s : State) : (s.updateBank f).pins = s.pins := rfl
@[simp] theorem State.updateBank_panel (f : CalBank → CalBank) (s : State) : (s.updateBank f).panel = s.panel := rfl
@[simp] theorem State.updateBank_log (f : CalBank → CalBank) (s : State) : (s.updateBank f).log = s.log := rfl
@[simp] theorem State.updateBank_reads (f : CalBank → CalBank) (s : State) : (s.updateBank f).reads = s.reads := rfl
@[simp] theorem State.updateBank_cfg (f : CalBank → CalBank) (s : State) : (s.updateBank f).cfg = s.cfg := rfl
@[simp] theorem State.updateBank_inputs (f : CalBank → CalBank) (s : State) :
    (s.updateBank f).inputs = s.inputs := rfl
@[simp] theorem State.updateBank_touchIn (f : CalBank → CalBank) (s : State) :
    (s.updateBank f).touchIn = s.touchIn := rfl
@[simp] theorem State.updateBank_penIn (f : CalBank → CalBank) (s : State) : (s.updateBank f).penIn = s.penIn := rfl
@[simp] theorem State.updateBank_draws (f : CalBank → CalBank) (s : State) : (s.updateBank f).draws = s.draws := rfl

/-! ### Block reset -/
@[simp] theorem State.blockReset_status (s : State) : s.blockReset.status = State.reset.status := rfl
@[simp] theorem State.blockReset_arg (s : State) : s.blockReset.arg = State.reset.arg := rfl
@[simp] theorem State.blockReset_orient (s : State) : s.blockReset.orient = State.reset.orient := rfl
@[simp] theorem State.blockReset_traw (s : State) : s.blockReset.traw = State.reset.traw := rfl
@[simp] theorem State.blockReset_tsx (s : State) : s.blockReset.tsx = State.reset.tsx := rfl
@[simp] theorem State.blockReset_tsy (s : State) : s.blockReset.tsy = State.reset.tsy := rfl
@[simp] theorem State.blockReset_calSel (s : State) : s.blockReset.calSel = State.reset.calSel := rfl
@[simp] theorem State.blockReset_cal (s : State) : s.blockReset.cal = State.reset.cal := rfl
@[simp] theorem State.blockReset_calValid (s : State) : s.blockReset.calValid = State.reset.calValid := rfl
@[simp] theorem State.blockReset_engine (s : State) : s.blockReset.engine = State.reset.engine := rfl
@[simp] theorem State.blockReset_cmdl (s : State) : s.blockReset.cmdl = State.reset.cmdl := rfl
@[simp] theorem State.blockReset_argl (s : State) : s.blockReset.argl = State.reset.argl := rfl
@[simp] theorem State.blockReset_sess (s : State) : s.blockReset.sess = State.reset.sess := rfl
@[simp] theorem State.blockReset_dotcnt (s : State) : s.blockReset.dotcnt = State.reset.dotcnt := rfl
@[simp] theorem State.blockReset_pins (s : State) : s.blockReset.pins = State.reset.pins := rfl
@[simp] theorem State.blockReset_panel (s : State) : s.blockReset.panel = s.panel.afterReset s.busy := rfl
@[simp] theorem State.blockReset_log (s : State) : s.blockReset.log = s.log := rfl
@[simp] theorem State.blockReset_reads (s : State) : s.blockReset.reads = s.reads := rfl
@[simp] theorem State.blockReset_cfg (s : State) : s.blockReset.cfg = s.cfg := rfl
@[simp] theorem State.blockReset_inputs (s : State) : s.blockReset.inputs = s.inputs := rfl
@[simp] theorem State.blockReset_touchIn (s : State) : s.blockReset.touchIn = s.touchIn := rfl
@[simp] theorem State.blockReset_penIn (s : State) : s.blockReset.penIn = s.penIn := rfl
@[simp] theorem State.blockReset_draws (s : State) : s.blockReset.draws = s.draws := rfl
@[simp] theorem State.blockReset_busy (s : State) : s.blockReset.busy = false := rfl

/-! ### Tables of eight entries -/

/-- Replacing an entry and reading it gives the new entry. -/
@[simp] theorem entry_setEntry_same {α : Type} (v : Vector α 8) (o : BitVec 3) (x : α) :
    entry (setEntry v o x) o = x := by
  simp [entry, setEntry]

/-- Replacing an entry leaves the others. -/
theorem entry_setEntry_other {α : Type} (v : Vector α 8) (o p : BitVec 3) (x : α) (h : p ≠ o) :
    entry (setEntry v o x) p = entry v p := by
  have hn : o.toNat ≠ p.toNat := fun e => h (BitVec.eq_of_toNat_eq e.symm)
  simp [entry, setEntry, hn]

/-! ### BUSY and ENG -/

/-- BUSY is 1 exactly while the engine runs a command (rule R41). -/
theorem State.busy_iff (s : State) : s.busy = true ↔ ∃ r, s.engine = .run r := by
  cases h : s.engine <;> simp [State.busy, h]

/-- BUSY is 0 exactly while the engine is idle (rule R41). -/
theorem State.not_busy_iff (s : State) : s.busy = false ↔ s.engine = .idle := by
  cases h : s.engine <;> simp [State.busy, h]

end Sys2Proof.Machine
end

