-- ==== Sys2Proof/Laws/Engine.lean ====
section
/-! SUPPORT. What the engine's operations can do, each said once: sessions, plans, acceptance, one event, a whole run
of known events, the commit. -/

namespace Sys2Proof.Machine

/-! ### Sessions and plans -/

@[simp] theorem Sessions.isOpen_closed (d : Device) : Sessions.closed.isOpen d = false := by cases d <;> rfl

@[simp] theorem Sessions.isOpen_withOpen (σ : Sessions) (d : Device) : (σ.withOpen d).isOpen d = true := by
  cases d <;> rfl

@[simp] theorem Sessions.withOpen_withOpen (σ : Sessions) (d : Device) :
    (σ.withOpen d).withOpen d = σ.withOpen d := by cases d <;> rfl

@[simp] theorem closeSlots_closed : closeSlots Sessions.closed = [] := rfl

@[simp] theorem closeSlots_panel : closeSlots ⟨true, false⟩ = [.emit (.closed .panel)] := rfl

@[simp] theorem closeSlots_touch : closeSlots ⟨false, true⟩ = [.emit (.closed .touch)] := rfl

@[simp] theorem openSlots_open (σ : Sessions) (d : Device) (h : σ.isOpen d = true) : openSlots σ d = [] := by
  simp [openSlots, h]

@[simp] theorem openSlots_closed (d : Device) :
    openSlots Sessions.closed d = [.emit (.opened d (rateOf d))] := by simp [openSlots]

/-- The sessions at the end of a procedure that starts with the given ones. -/
def sessionsAt : Sessions → List Act → Sessions
  | σ, [] => σ
  | σ, .ensure d :: as => sessionsAt (σ.withOpen d) as
  | σ, .emit e :: as => sessionsAt (σ.after e) as
  | σ, .wait _ :: as => sessionsAt σ as
  | σ, .receive :: as => sessionsAt σ as
  | σ, .samplePen :: as => sessionsAt σ as
  | _, .finish :: as => sessionsAt Sessions.closed as

/-- The sessions of two procedures in sequence. -/
theorem sessionsAt_append (as bs : List Act) : ∀ σ, sessionsAt σ (as ++ bs) = sessionsAt (sessionsAt σ as) bs := by
  induction as with
  | nil => intro σ; rfl
  | cons a as ih => intro σ; cases a <;> simp [sessionsAt, ih]

/-- The events of two procedures in sequence: the second starts with the sessions the first leaves. -/
theorem plan_append (as bs : List Act) : ∀ σ, plan σ (as ++ bs) = plan σ as ++ plan (sessionsAt σ as) bs := by
  induction as with
  | nil => intro σ; rfl
  | cons a as ih =>
    intro σ
    cases a <;> simp only [List.cons_append, plan, sessionsAt, ih, List.append_assoc]
    split <;> rfl

/-- A procedure that ends with `finish()` leaves every session closed. -/
@[simp] theorem sessionsAt_finish (as : List Act) (σ : Sessions) :
    sessionsAt σ (as ++ [.finish]) = Sessions.closed := by
  simp [sessionsAt_append, sessionsAt]

/-- A panel byte, session and all: OPEN comes first when no PANEL session is open. -/
theorem plan_pCmd (σ : Sessions) (r : Byte) :
    plan σ (pCmd r) = openSlots σ .panel ++ [.emit (.ptx .command r)] := rfl

/-- A data byte, session and all. -/
theorem plan_pData (σ : Sessions) (b : Byte) :
    plan σ (pData b) = openSlots σ .panel ++ [.emit (.ptx .data b)] := rfl

/-! ### Acceptance -/

/-- Everything acceptance can do (rule R38): an overrun, a rejection, or the start of the command. -/
theorem accept_cases (i : Instr) (legal needs : Bool) (f : State → List Act) (s : State) :
    (s.busy = true ∧ accept i legal needs f s = .next s.overrun) ∨
    (s.busy = false ∧ legal = false ∧ accept i legal needs f s = .next s.rejectEarg) ∨
    (s.busy = false ∧ legal = true ∧ needs = true ∧ s.status.ready = false ∧
      accept i legal needs f s = .next s.rejectNrdy) ∨
    (s.busy = false ∧ legal = true ∧ (needs = true → s.status.ready = true) ∧
      accept i legal needs f s = .next ((s.latch i).start i (f (s.latch i)))) := by
  unfold accept
  cases hb : s.busy <;> cases legal <;> cases needs <;> cases hr : s.status.ready <;> simp

/-- Acceptance of a legal command on a ready, idle machine starts it. -/
theorem accept_starts (i : Instr) (needs : Bool) (f : State → List Act) (s : State) (h : s.busy = false)
    (hr : needs = true → s.status.ready = true) :
    accept i true needs f s = .next ((s.latch i).start i (f (s.latch i))) := by
  unfold accept
  cases needs <;> simp_all

/-- Acceptance always gives a next state. -/
theorem accept_next (i : Instr) (legal needs : Bool) (f : State → List Act) (s : State) :
    ∃ t, accept i legal needs f s = .next t := by
  rcases accept_cases i legal needs f s with h | h | h | h <;> exact ⟨_, by first | exact h.2 | exact h.2.2 | exact h.2.2.2.2 | exact h.2.2.2⟩

/-! ### The pins after an event -/

@[simp] theorem Pins.loose_prst (n : Nat) (p : Pins) : (p.loose n).prst = p.prst := rfl

@[simp] theorem Pins.loose_sclk (n : Nat) (p : Pins) : (p.loose n).sclk = p.sclk := rfl

@[simp] theorem Pins.loose_bl (n : Nat) (p : Pins) : (p.loose n).bl = p.bl := rfl

/-- Only RST changes PRST, and to its level (rule R83). -/
theorem Pins.after_prst (n : Nat) (e : Event) (p : Pins) :
    (∃ l, e = .rst l ∧ (p.after n e).prst = l) ∨ ((∀ l, e ≠ .rst l) ∧ (p.after n e).prst = p.prst) := by
  cases e <;> simp [Pins.after]

/-- Only BL changes the backlight, and to its level (rule R83). -/
theorem Pins.after_bl (n : Nat) (e : Event) (p : Pins) :
    (∃ v, e = .bl v ∧ (p.after n e).bl = v) ∨ ((∀ v, e ≠ .bl v) ∧ (p.after n e).bl = p.bl) := by
  cases e <;> simp [Pins.after]

/-- SCLK idles low: no event leaves it high that found it low (rule R78). -/
theorem Pins.after_sclk (n : Nat) (e : Event) (p : Pins) (h : p.sclk = false) : (p.after n e).sclk = false := by
  cases e <;> simp [Pins.after, h]

/-! ### Runs of known events -/

@[simp] theorem afterEvents_nil (s : State) : s.afterEvents [] = s := rfl

@[simp] theorem afterEvents_cons (s : State) (e : Event) (es : List Event) :
    s.afterEvents (e :: es) = (s.performEvent e).afterEvents es := rfl

theorem afterEvents_append (s : State) (es fs : List Event) :
    s.afterEvents (es ++ fs) = (s.afterEvents es).afterEvents fs := by simp [State.afterEvents]

/-- Events change only the log, the sessions, the pins, the panel and the draw counter. -/
theorem afterEvents_frame (es : List Event) : ∀ s : State, ∃ log sess pins panel draws,
    s.afterEvents es = { s with log := log, sess := sess, pins := pins, panel := panel, draws := draws } := by
  induction es with
  | nil => intro s; exact ⟨s.log, s.sess, s.pins, s.panel, s.draws, rfl⟩
  | cons e es ih =>
    intro s
    obtain ⟨l, σ, p, q, d, h⟩ := ih (s.performEvent e)
    exact ⟨l, σ, p, q, d, h⟩

/-- The log after events. -/
@[simp] theorem afterEvents_log (es : List Event) : ∀ s : State, (s.afterEvents es).log = s.log ++ es := by
  induction es with
  | nil => simp
  | cons e es ih => simp [ih]

/-- The sessions after events. -/
@[simp] theorem afterEvents_sess (es : List Event) :
    ∀ s : State, (s.afterEvents es).sess = es.foldl (fun σ e => σ.after e) s.sess := by
  induction es with
  | nil => simp
  | cons e es ih => simp [ih]

/-- The panel after events. -/
@[simp] theorem afterEvents_panel (es : List Event) : ∀ s : State, (s.afterEvents es).panel =
    es.foldl (fun p e => p.after s.cfg (width s.cfg s.orient) (height s.cfg s.orient) e) s.panel := by
  induction es with
  | nil => simp
  | cons e es ih => intro s; simp [ih]

/-- Events do not look at ENG and leave it. -/
@[simp] theorem afterEvents_setEngine (g : Engine) (es : List Event) :
    ∀ s : State, (s.setEngine g).afterEvents es = (s.afterEvents es).setEngine g := by
  induction es with
  | nil => intro s; rfl
  | cons e es ih => intro s; simp [ih]

/-- Did any of these events begin a pixel write (rule R42)? -/
def beginsWrite (c : Config) (es : List Event) : Bool := es.any fun e => e == .ptx .command c.regRamwr

/-- What the running command notes of one event: nothing but REG_RAMWR. -/
theorem noteRamwr_eq (c : Config) (e : Event) (r : Running) :
    r.noteRamwr c e = { r with ramwr := r.ramwr || e == .ptx .command c.regRamwr } := by
  unfold Running.noteRamwr
  split
  · rename_i b
    by_cases h : b = c.regRamwr
    · subst h; simp
    · simp [h, beq_eq_false_iff_ne.2]
  · rename_i hne
    have h : (e == .ptx .command c.regRamwr) = false := beq_eq_false_iff_ne.2 (hne _)
    simp [h]

/-! ### Steps of the engine -/

@[simp] theorem engineStep_idle (s : State) (h : s.engine = .idle) : engineStep s = s := by
  simp [engineStep, h]

theorem engineStep_commit (s : State) (r : Running) (h : s.engine = .run r) (ht : r.todo = []) :
    engineStep s = commit r s := by simp [engineStep, h, ht]

theorem engineStep_slot (s : State) (r : Running) (slot : Slot) (rest : List Slot) (h : s.engine = .run r)
    (ht : r.todo = slot :: rest) : engineStep s = s.performSlot r rest slot := by simp [engineStep, h, ht]

/-- Everything one step of the engine can do: nothing when idle, the commit, or the next event. -/
theorem engineStep_cases (s : State) :
    (s.engine = .idle ∧ engineStep s = s) ∨
    (∃ r, s.engine = .run r ∧ r.todo = [] ∧ engineStep s = commit r s) ∨
    ∃ r slot rest, s.engine = .run r ∧ r.todo = slot :: rest ∧ engineStep s = s.performSlot r rest slot := by
  cases h : s.engine with
  | idle => exact .inl ⟨rfl, engineStep_idle s h⟩
  | run r =>
    cases ht : r.todo with
    | nil => exact .inr (.inl ⟨r, rfl, ht, engineStep_commit s r h ht⟩)
    | cons slot rest => exact .inr (.inr ⟨r, slot, rest, rfl, ht, engineStep_slot s r slot rest h ht⟩)

/-- One slot appends one event to the log and leaves the engine running the same command. -/
theorem performSlot_log (s : State) (r : Running) (rest : List Slot) (slot : Slot) :
    ∃ e, (s.performSlot r rest slot).log = s.log ++ [e] ∧
      (s.performSlot r rest slot).sess = s.sess.after e ∧
      ∃ r', (s.performSlot r rest slot).engine = .run r' ∧ r'.cmd = r.cmd ∧
        (r'.todo = rest ∨ (slot = .samplePen ∧ r'.todo = closeSlots s.sess)) := by
  cases slot with
  | emit e => exact ⟨e, rfl, rfl, _, rfl, by simp [noteRamwr_eq], .inl (by simp [noteRamwr_eq])⟩
  | receive => exact ⟨_, rfl, rfl, _, rfl, rfl, .inl rfl⟩
  | samplePen =>
    refine ⟨_, rfl, rfl, _, rfl, rfl, ?_⟩
    cases s.nextPen with
    | down => exact .inl rfl
    | up => exact .inr ⟨rfl, rfl⟩

/-- One slot writes no register of the host's map, no calibration bank, no latch and no parameter. -/
theorem performSlot_frame (s : State) (r : Running) (rest : List Slot) (slot : Slot) :
    let t := s.performSlot r rest slot
    t.status = s.status ∧ t.arg = s.arg ∧ t.orient = s.orient ∧ t.traw = s.traw ∧ t.tsx = s.tsx ∧ t.tsy = s.tsy ∧
    t.calSel = s.calSel ∧ t.cal = s.cal ∧ t.calValid = s.calValid ∧ t.cmdl = s.cmdl ∧ t.argl = s.argl ∧
    t.dotcnt = s.dotcnt ∧ t.reads = s.reads ∧ t.cfg = s.cfg ∧ t.inputs = s.inputs := by
  cases slot <;> simp [State.performSlot]

@[simp] theorem engineSteps_zero (s : State) : engineSteps 0 s = s := rfl

@[simp] theorem engineSteps_succ (n : Nat) (s : State) : engineSteps (n + 1) s = engineSteps n (engineStep s) := rfl

theorem engineSteps_add (m n : Nat) : ∀ s, engineSteps (m + n) s = engineSteps n (engineSteps m s) := by
  induction m with
  | zero => intro s; simp
  | succ m ih => intro s; rw [Nat.succ_add]; exact ih _

/-- An idle engine stays idle. -/
@[simp] theorem engineSteps_idle (n : Nat) (s : State) (h : s.engine = .idle) : engineSteps n s = s := by
  induction n with
  | zero => rfl
  | succ n ih => simp [h, ih]

/-- The state once an idle machine has settled is itself. -/
@[simp] theorem settle_idle (s : State) (h : s.engine = .idle) : s.settle = s := by
  simp [State.settle, State.stepsLeft, h]

/-- A run of known events, one engine step each. -/
theorem engineSteps_emits (es : List Event) : ∀ (s : State) (r : Running) (rest : List Slot),
    s.engine = .run r → r.todo = es.map Slot.emit ++ rest →
    engineSteps es.length s = (s.afterEvents es).setEngine
      (.run { r with todo := rest, ramwr := r.ramwr || beginsWrite s.cfg es }) := by
  induction es with
  | nil =>
    intro s r rest h ht
    have hr : ({ r with todo := rest, ramwr := r.ramwr || beginsWrite s.cfg [] } : Running) = r := by
      cases r; simp_all [beginsWrite]
    rw [hr, ← h]; rfl
  | cons e es ih =>
    intro s r rest h ht
    rw [List.length_cons, engineSteps_succ, engineStep_slot s r (.emit e) (es.map Slot.emit ++ rest) h ht,
      ih _ _ rest rfl (by simp [noteRamwr_eq])]
    simp [State.performSlot, noteRamwr_eq, beginsWrite, Bool.or_assoc]

/-- A running command whose remaining events are all known makes them and commits. -/
theorem settle_emits (es : List Event) (s : State) (r : Running) (h : s.engine = .run r)
    (ht : r.todo = es.map Slot.emit) :
    s.settle = commit { r with todo := [], ramwr := r.ramwr || beginsWrite s.cfg es }
      ((s.afterEvents es).setEngine
        (.run { r with todo := [], ramwr := r.ramwr || beginsWrite s.cfg es })) := by
  have hlen : s.stepsLeft = es.length + 3 := by simp [State.stepsLeft, h, ht]
  rw [State.settle, hlen, engineSteps_add, engineSteps_emits es s r [] h (by simpa using ht), engineSteps_succ,
    engineStep_commit _ _ rfl rfl, engineSteps_idle _ _ rfl]

/-! ### Commits -/

/-- A commit leaves the engine idle (rule R40). -/
@[simp] theorem commit_engine (r : Running) (s : State) : (commit r s).engine = .idle := rfl

/-- A commit sets DONE (rule R40). -/
@[simp] theorem commit_done (r : Running) (s : State) : (commit r s).status.done = true := rfl

/-- Everything a commit leaves alone: the log, the sessions, the pins, the arguments and their latches, the
calibration, the parameters and what lies outside (rule R40). -/
theorem commit_frame (r : Running) (s : State) :
    let t := commit r s
    t.log = s.log ∧ t.sess = s.sess ∧ t.pins = s.pins ∧ t.arg = s.arg ∧ t.argl = s.argl ∧ t.cmdl = s.cmdl ∧
    t.calSel = s.calSel ∧ t.cal = s.cal ∧ t.calValid = s.calValid ∧ t.cfg = s.cfg ∧ t.inputs = s.inputs ∧
    t.reads = s.reads ∧ t.touchIn = s.touchIn ∧ t.penIn = s.penIn ∧ t.draws = s.draws := by
  obtain ⟨cmd, todo, rx, pen, ramwr⟩ := r
  cases cmd <;>
    simp [commit, commitResults, commitNop, commitBegin, commitSetOrient, commitSetWindow, commitStream,
      commitSetPixel, commitFillArea, commitClear, commitDrawPoint, commitDrawLine, commitDrawRect, commitDrawCircle,
      commitTouchRaw, commitTouchAvg, commitTouchTwice, commitTouchScan, commitMap, State.commitPress] <;>
    (try split) <;> simp

end Sys2Proof.Machine
end

