-- ==== Sys2Proof/Laws/Bus.lean ====
section
/-! SUPPORT. What a host access and a step of the machine can do, each said once. -/

namespace Sys2Proof.Machine

/-- The accesses with a meaning are those of rule R70. -/
theorem registerAt_isSome (off w : Nat) : (registerAt off w).isSome = true ↔ w = 4 ∧ off % 4 = 0 ∧ off < 0x80 := by
  unfold registerAt
  split <;> simp_all

/-- The register at word `k` of the window. -/
theorem registerAt_word (k : Nat) (h : k < 32) : registerAt (4 * k) 4 = some (registerMap.getD k .reserved) := by
  have h1 : 4 * k % 4 = 0 := by omega
  have h2 : 4 * k < 0x80 := by omega
  have h3 : 4 * k / 4 = k := by omega
  simp [registerAt, h1, h2, h3]

/-- exec of any command gives a next state, in any state (rule R280). -/
theorem exec_next (i : Instr) (s : State) : ∃ t, exec i s = .next t := by
  cases i <;> exact accept_next _ _ _ _ s

/-- Everything exec can do (rule R38): an overrun, one of the two rejections, or the start of the command with the
latches written. -/
theorem exec_cases (i : Instr) (s : State) :
    (s.busy = true ∧ exec i s = .next s.overrun) ∨
    (s.busy = false ∧ exec i s = .next s.rejectEarg) ∨
    (s.busy = false ∧ needsReady i = true ∧ s.status.ready = false ∧ exec i s = .next s.rejectNrdy) ∨
    (s.busy = false ∧ (needsReady i = true → s.status.ready = true) ∧
      ∃ acts, exec i s = .next ((s.latch i).start i acts)) := by
  cases i <;>
    (rcases accept_cases _ _ _ _ s with h | h | h | h
     · exact .inl h
     · exact .inr (.inl ⟨h.1, h.2.2⟩)
     · exact .inr (.inr (.inl ⟨h.1, h.2.2.1, h.2.2.2.1, h.2.2.2.2⟩))
     · exact .inr (.inr (.inr ⟨h.1, h.2.2.1, _, h.2.2.2⟩)))

/-- Everything a CMD write can do (rules R25, R38). -/
theorem writeCmd_cases (v : Word) (s : State) :
    (s.busy = true ∧ s.writeCmd v = .next s.overrun) ∨
    (s.busy = false ∧ (∃ why, decode v = .illegal why) ∧ s.writeCmd v = .next s.rejectIll) ∨
    ∃ i, s.busy = false ∧ decode v = .instr i ∧ s.writeCmd v = exec i s := by
  unfold State.writeCmd
  cases hb : s.busy
  · cases hd : decode v with
    | illegal why => exact .inr (.inl ⟨rfl, ⟨why, rfl⟩, by simp⟩)
    | instr i => exact .inr (.inr ⟨i, rfl, rfl, by simp⟩)
  · exact .inl ⟨rfl, by simp⟩

/-- Every register write gives a next state. -/
theorem writeReg_next (v : Word) (s : State) (r : HostReg) : ∃ t, s.writeReg v r = .next t := by
  cases r with
  | cmd =>
    rcases writeCmd_cases v s with h | h | ⟨i, h⟩
    · exact ⟨_, h.2⟩
    · exact ⟨_, h.2.2⟩
    · obtain ⟨t, ht⟩ := exec_next i s
      exact ⟨t, h.2.2.trans ht⟩
  | id => exact ⟨_, rfl⟩
  | status => exact ⟨_, rfl⟩
  | arg0 => exact ⟨_, rfl⟩
  | arg1 => exact ⟨_, rfl⟩
  | arg2 => exact ⟨_, rfl⟩
  | arg3 => exact ⟨_, rfl⟩
  | geom => exact ⟨_, rfl⟩
  | orient => exact ⟨_, rfl⟩
  | traw => exact ⟨_, rfl⟩
  | tsx => exact ⟨_, rfl⟩
  | tsy => exact ⟨_, rfl⟩
  | calSel => exact ⟨_, rfl⟩
  | calXfac => exact ⟨_, rfl⟩
  | calYfac => exact ⟨_, rfl⟩
  | calXoff => exact ⟨_, rfl⟩
  | calYoff => exact ⟨_, rfl⟩
  | calValid => exact ⟨_, rfl⟩
  | reserved => exact ⟨_, rfl⟩

/-- Everything an access that gives a next state can be: a read, which delivers a value, or a write to a register. -/
theorem access_cases (s t : State) (a : Access) (h : s.access a = .next t) :
    (∃ off w r, a = .read off w ∧ registerAt off w = some r ∧ t = s.deliver off (s.readReg r)) ∨
    ∃ off w v r, a = .write off w v ∧ registerAt off w = some r ∧ s.writeReg v r = .next t := by
  cases a with
  | read off w =>
    simp only [State.access] at h
    split at h
    · cases h
    · rename_i r hr
      exact .inl ⟨off, w, r, rfl, hr, by simpa using h.symm⟩
  | write off w v =>
    simp only [State.access] at h
    split at h
    · cases h
    · rename_i r hr
      exact .inr ⟨off, w, v, r, rfl, hr, h⟩

/-- What an access under block reset leaves: the reset state, or it with one value read. -/
theorem accessInReset_cases (s t : State) (a : Option Access) (h : s.accessInReset a = .next t) :
    t = s ∨ ∃ off v, t = s.deliver off v := by
  cases a with
  | none => exact .inl (by simpa [State.accessInReset] using h.symm)
  | some a =>
    cases a with
    | read off w =>
      rcases access_cases s t (.read off w) h with ⟨off', _, r, _, _, ht⟩ | ⟨_, _, _, _, he, _⟩
      · exact .inr ⟨off', _, ht⟩
      · exact absurd he (by simp)
    | write off w v =>
      simp only [State.accessInReset] at h
      split at h
      · cases h
      · exact .inl (by simpa using h.symm)

/-- Everything a step can do, by the input it takes (rules R310, R335, R336). -/
theorem step_cases (s t : State) (h : step s = .next t) :
    (s.inputs = [] ∧ t = engineStep s) ∨
    (∃ a tick rest u, s.inputs = .access a tick :: rest ∧ State.access { s with inputs := rest } a = .next u ∧
      t = if tick && s.busy then engineStep u else u) ∨
    (∃ rest, s.inputs = .poll :: rest ∧ t = State.pollTurn { s with inputs := rest }) ∨
    (∃ rest, s.inputs = .engine :: rest ∧ t = engineStep { s with inputs := rest }) ∨
    (∃ a rest, s.inputs = .reset a :: rest ∧
      State.accessInReset (State.blockReset { s with inputs := rest }) a = .next t) := by
  unfold step State.cycle at h
  split at h
  · rename_i hi
    exact .inl ⟨hi, by simpa using h.symm⟩
  · rename_i i rest hi
    cases i with
    | access a tick =>
      simp only [State.takeInput] at h
      cases ha : State.access { s with inputs := rest } a with
      | next u =>
        rw [ha] at h
        exact .inr (.inl ⟨a, tick, rest, u, hi, ha, by simpa [thenEngine, State.busy] using h.symm⟩)
      | fault r => cases r
      | refused r => rw [ha] at h; cases h
    | poll => exact .inr (.inr (.inl ⟨rest, hi, by simpa [State.takeInput] using h.symm⟩))
    | engine => exact .inr (.inr (.inr (.inl ⟨rest, hi, by simpa [State.takeInput] using h.symm⟩)))
    | reset a => exact .inr (.inr (.inr (.inr ⟨a, rest, hi, h⟩)))

/-- One turn of POLL (rule R121): the read, and while BUSY the POLL stays next and the engine steps. -/
theorem pollTurn_cases (s : State) :
    (s.busy = false ∧ s.pollTurn = s.deliver statusOffset (s.readReg .status)) ∨
    (s.busy = true ∧ s.pollTurn =
      engineStep { s.deliver statusOffset (s.readReg .status) with inputs := .poll :: s.inputs }) := by
  unfold State.pollTurn
  cases h : s.busy
  · exact .inl ⟨rfl, by simp⟩
  · exact .inr ⟨rfl, by simp⟩

/-- The parameters of the reset machine meet the spec's constraints, whatever the platform's values are. -/
theorem platform_wf : platform.wf = true := by
  unfold platform constrained
  split
  · assumption
  · rfl

end Sys2Proof.Machine
end

