-- ==== Sys2Proof/Laws/PerInstr.lean ====
section
/-! SUPPORT. The family RowMatch, one lemma per command: the word the encoder writes for it spells the row of the
opcode map with its mnemonic, and no bit the row's mask fixes is written otherwise (30_encoding.md rules R112 to
R114). -/

namespace Sys2Proof.Laws.RowMatch

/-- The encoding of the command spells the row of its mnemonic. -/
def spellsRow (mnemonic : String) (i : Instr) : Prop :=
  ∃ r ∈ opcodeMap, r.mnemonic = mnemonic ∧ r.spells (encode i) = true

/-- The mnemonic of a command's row (rule R114). -/
def mnemonicOf : Instr → String
  | .nop => "NOP"
  | .beginPanel _ _ => "BEGIN"
  | .setOrient _ => "SET_ORIENT"
  | .setWindow => "SET_WINDOW"
  | .stream => "STREAM"
  | .setPixel => "SET_PIXEL"
  | .fillArea => "FILL_AREA"
  | .clear => "CLEAR"
  | .drawPoint _ _ => "DRAW_POINT"
  | .drawLine _ _ _ => "DRAW_LINE"
  | .drawRect _ _ _ _ => "DRAW_RECT"
  | .drawCircle _ _ _ => "DRAW_CIRCLE"
  | .touchRaw => "TOUCH_RAW"
  | .touchAvg => "TOUCH_AVG"
  | .touchTwice => "TOUCH_TWICE"
  | .touchScan => "TOUCH_SCAN"
  | .map => "MAP"

/-- The statement of the family. -/
def Statement (i : Instr) : Prop := i.wellFormed = true → spellsRow (mnemonicOf i) i

/-- A command spells the `k`-th row of the map when it has that row's mnemonic and its word matches. -/
theorem spellsRow_of (mnemonic : String) (k : Nat) (i : Instr) (hk : k < opcodeMap.length)
    (hm : opcodeMap[k].mnemonic = mnemonic) (hs : opcodeMap[k].spells (encode i) = true) : spellsRow mnemonic i :=
  ⟨opcodeMap[k], List.getElem_mem hk, hm, hs⟩

theorem nop : Statement .nop := fun _ => spellsRow_of _ 0 _ (by decide) rfl (by decide)

theorem beginPanel (orient : Orientation) (bl : Byte) : Statement (.beginPanel orient bl) := fun _ =>
  spellsRow_of _ 1 _ (by decide) rfl (by
    have h : (bl ++ 0#5 ++ orient ++ 0#8 ++ 1#8) &&& (0#8 ++ 31#5 ++ 0#3 ++ 255#8 ++ 255#8) =
        0#8 ++ 0#5 ++ 0#3 ++ 0#8 ++ 1#8 := by
      simp only [BitVec.and_append, BitVec.and_zero]
      rfl
    exact beq_iff_eq.2 h)

theorem setOrient (orient : Orientation) : Statement (.setOrient orient) := fun _ =>
  spellsRow_of _ 2 _ (by decide) rfl (by revert orient; decide)

theorem setWindow : Statement .setWindow := fun _ => spellsRow_of _ 3 _ (by decide) rfl (by decide)

theorem stream : Statement .stream := fun _ => spellsRow_of _ 4 _ (by decide) rfl (by decide)

theorem setPixel : Statement .setPixel := fun _ => spellsRow_of _ 5 _ (by decide) rfl (by decide)

theorem fillArea : Statement .fillArea := fun _ => spellsRow_of _ 6 _ (by decide) rfl (by decide)

theorem clear : Statement .clear := fun _ => spellsRow_of _ 7 _ (by decide) rfl (by decide)

theorem drawPoint (sz : Nat) (ds : DotStyle) : Statement (.drawPoint sz ds) := fun _ =>
  spellsRow_of _ 8 _ (by decide) rfl (by
    simp only [encode]
    generalize sizeBits sz = bits
    revert bits
    cases ds <;> decide)

theorem drawLine (sz : Nat) (ls : LineStyle) (ds : DotStyle) : Statement (.drawLine sz ls ds) := fun _ =>
  spellsRow_of _ 9 _ (by decide) rfl (by
    simp only [encode]
    generalize sizeBits sz = bits
    revert bits
    cases ls <;> cases ds <;> decide)

theorem drawRect (sz : Nat) (ls : LineStyle) (fl : FillStyle) (ds : DotStyle) : Statement (.drawRect sz ls fl ds) := fun _ =>
  spellsRow_of _ 10 _ (by decide) rfl (by
    simp only [encode]
    generalize sizeBits sz = bits
    revert bits
    cases ls <;> cases fl <;> cases ds <;> decide)

theorem drawCircle (sz : Nat) (fl : FillStyle) (ds : DotStyle) : Statement (.drawCircle sz fl ds) := fun _ =>
  spellsRow_of _ 11 _ (by decide) rfl (by
    simp only [encode]
    generalize sizeBits sz = bits
    revert bits
    cases fl <;> cases ds <;> decide)

theorem touchRaw : Statement .touchRaw := fun _ => spellsRow_of _ 12 _ (by decide) rfl (by decide)

theorem touchAvg : Statement .touchAvg := fun _ => spellsRow_of _ 13 _ (by decide) rfl (by decide)

theorem touchTwice : Statement .touchTwice := fun _ => spellsRow_of _ 14 _ (by decide) rfl (by decide)

theorem touchScan : Statement .touchScan := fun _ => spellsRow_of _ 15 _ (by decide) rfl (by decide)

theorem map : Statement .map := fun _ => spellsRow_of _ 16 _ (by decide) rfl (by decide)

end Sys2Proof.Laws.RowMatch
end

