-- ==== Sys2Proof/Laws/Plans.lean ====
section
/-! SUPPORT. The procedures as event lists: what P_WINDOW, P_WORD, PIXEL, FILL and the drawing steps send, and the one
PANEL session around a run of panel bytes. -/

namespace Sys2Proof.Machine

/-- The statements that send these panel bytes, each after `ensure(PANEL)` (rules R141, R142). -/
def panelBytes (es : List Event) : List Act := es.flatMap fun e => [.ensure .panel, .emit e]

@[simp] theorem panelBytes_nil : panelBytes [] = [] := rfl

@[simp] theorem panelBytes_cons (e : Event) (es : List Event) :
    panelBytes (e :: es) = .ensure .panel :: .emit e :: panelBytes es := rfl

@[simp] theorem panelBytes_append (es fs : List Event) : panelBytes (es ++ fs) = panelBytes es ++ panelBytes fs := by
  simp [panelBytes]

theorem pCmd_eq (r : Byte) : pCmd r = panelBytes [.ptx .command r] := rfl

theorem pData_eq (b : Byte) : pData b = panelBytes [.ptx .data b] := rfl

theorem pWord_eq (w : Half) : pWord w = panelBytes (wordEvents w) := rfl

theorem pWindow_eq (c : Config) (x0 y0 x1 y1 : Int) :
    pWindow c x0 y0 x1 y1 = panelBytes (windowEvents c x0 y0 x1 y1) := rfl

theorem pWords_eq (n : Nat) (w : Half) : pWords n w = panelBytes (wordsEvents n w) := by
  induction n with
  | zero => rfl
  | succ n ih =>
    simp only [pWords, wordsEvents, List.replicate_succ, List.flatten_cons, panelBytes_append] at ih ⊢
    rw [ih, pWord_eq]

theorem registerWrite_eq (reg : Byte) (data : List Byte) :
    registerWrite reg data = panelBytes (registerEvents reg data) := by
  have h : data.flatMap pData = panelBytes (data.map fun b => .ptx .data b) := by
    induction data with
    | nil => rfl
    | cons b bs ih => simp [ih, pData_eq]
  simp [registerWrite, registerEvents, h, pCmd_eq]

theorem orientWrites_eq (c : Config) (o : Orientation) :
    orientWrites c o = panelBytes ((entry c.orientRegs o).flatMap fun w => registerEvents w.reg w.data) := by
  simp only [orientWrites, registerWrite_eq]
  induction entry c.orientRegs o with
  | nil => rfl
  | cons w ws ih => simp [ih]

/-- A drawing step sends its events. -/
theorem Draw.acts_eq (c : Config) (o : Orientation) (d : Draw) : d.acts c o = panelBytes (d.events c o) := by
  cases d with
  | pixel x y colour =>
    by_cases h : inBounds c o x y = true <;>
      simp [Draw.acts, Draw.events, Draw.shown, Machine.pixel, h, pWindow_eq, pWord_eq]
  | fill x0 y0 x1 y1 colour =>
    by_cases h : winOK c o x0 y0 x1 y1 = true <;>
      simp [Draw.acts, Draw.events, Draw.shown, Machine.fill, h, pWindow_eq, pWords_eq]

/-- Drawing steps send their events, in order. -/
theorem drawActs_eq (c : Config) (o : Orientation) (ds : List Draw) :
    drawActs c o ds = panelBytes (drawEvents c o ds) := by
  induction ds with
  | nil => rfl
  | cons d ds ih =>
    simp only [drawActs, drawEvents, List.flatMap_cons, panelBytes_append] at ih ⊢
    rw [ih, Draw.acts_eq]

/-- Inside a PANEL session panel bytes are sent as they stand. -/
theorem plan_panelBytes_open (es : List Event) (h : ∀ e ∈ es, isPanelByte e = true) :
    plan ⟨true, false⟩ (panelBytes es) = es.map Slot.emit ∧ sessionsAt ⟨true, false⟩ (panelBytes es) = ⟨true, false⟩ := by
  induction es with
  | nil => exact ⟨rfl, rfl⟩
  | cons e es ih =>
    obtain ⟨ih1, ih2⟩ := ih fun e he => h e (List.mem_cons_of_mem _ he)
    have he := h e (List.mem_cons_self ..)
    cases e with
    | ptx dc b => exact ⟨congrArg (_ :: ·) ih1, ih2⟩
    | rst l => cases he
    | opened d r => cases he
    | closed d => cases he
    | ttx b => cases he
    | trx b => cases he
    | wait t => cases he
    | bl v => cases he
    | pen l => cases he

/-- A procedure that sends panel bytes and finishes makes one PANEL session of them, or nothing (rule R77). -/
theorem plan_panelBytes_finish (es : List Event) (h : ∀ e ∈ es, isPanelByte e = true) :
    plan Sessions.closed (panelBytes es ++ [.finish]) = (panelSession es).map Slot.emit := by
  cases es with
  | nil => rfl
  | cons e es =>
    have he := h e (List.mem_cons_self ..)
    obtain ⟨h1, h2⟩ := plan_panelBytes_open (e :: es) h
    have hs : panelSession (e :: es) = .opened .panel .fast :: (e :: es) ++ [.closed .panel] := by
      simp [panelSession, he]
    have hp : plan Sessions.closed (panelBytes (e :: es) ++ [.finish]) =
        .emit (.opened .panel .fast) :: plan ⟨true, false⟩ (panelBytes (e :: es) ++ [.finish]) := rfl
    rw [hp, plan_append, h1, h2, hs]
    simp [plan]

/-- Every event of the panel helpers is a panel byte. -/
theorem isPanelByte_windowEvents (c : Config) (x0 y0 x1 y1 : Int) :
    ∀ e ∈ windowEvents c x0 y0 x1 y1, isPanelByte e = true := by
  simp [windowEvents, wordEvents, isPanelByte]

theorem isPanelByte_wordsEvents (n : Nat) (w : Half) : ∀ e ∈ wordsEvents n w, isPanelByte e = true := by
  intro e he
  simp only [wordsEvents, List.mem_flatten, List.mem_replicate] at he
  obtain ⟨l, ⟨_, rfl⟩, he⟩ := he
  simp only [wordEvents, List.mem_cons, List.not_mem_nil, or_false] at he
  rcases he with rfl | rfl <;> rfl

theorem isPanelByte_registerEvents (reg : Byte) (data : List Byte) :
    ∀ e ∈ registerEvents reg data, isPanelByte e = true := by
  simp [registerEvents, isPanelByte]

theorem isPanelByte_drawEvents (c : Config) (o : Orientation) (ds : List Draw) :
    ∀ e ∈ drawEvents c o ds, isPanelByte e = true := by
  intro e he
  simp only [drawEvents, List.mem_flatMap] at he
  obtain ⟨d, _, he⟩ := he
  unfold Draw.events at he
  split at he
  · cases d with
    | pixel x y colour =>
      rcases List.mem_append.1 he with he | he
      · exact isPanelByte_windowEvents _ _ _ _ _ e he
      · exact isPanelByte_wordsEvents 1 colour e (by simpa [wordsEvents] using he)
    | fill x0 y0 x1 y1 colour =>
      rcases List.mem_append.1 he with he | he
      · exact isPanelByte_windowEvents _ _ _ _ _ e he
      · exact isPanelByte_wordsEvents _ _ e he
  · cases he

end Sys2Proof.Machine
end

