-- ==== Sys2Proof/Machine/Wire.lean ====
section
/-! DEFINITION. The wires below the events: the bits of a byte (20_memory.md rule R78), the electrical levels of the
selected pins (10_state.md rule R45), and the lower bounds on time that waits and bytes give (rules R80, R340). The
step reads none of these: the model keeps no time (rule R44). -/

namespace Sys2Proof.Machine

/-- The bits of one byte in the order they are sent: most significant first (rule R78). -/
def wireBits (b : Byte) : List Bool := (List.range 8).map fun k => b.getLsbD (7 - k)

/-- The bits of a 16-bit value on the wire: its high byte, then its low byte (rule R78). -/
def wireBits16 (w : Half) : List Bool := wireBits (w.extractLsb' 8 8) ++ wireBits (w.extractLsb' 0 8)

/-- PCS is asserted during a PANEL session (rule R45). -/
def State.pcs (s : State) : Level := if s.sess.panel then .asserted else .released

/-- TCS is asserted during a TOUCH session (rule R45). -/
def State.tcs (s : State) : Level := if s.sess.touch then .asserted else .released

/-- The electrical level of a line whose asserted level is given by a platform parameter (rule R45). -/
def electrical (assertedLevel : Bool) : Level → Bool
  | .asserted => assertedLevel
  | .released => !assertedLevel

/-- The electrical levels of PRST, PCS and TCS (rule R45). -/
def State.selectLevels (s : State) : Bool × Bool × Bool :=
  (electrical s.cfg.prstAssertedLevel s.pins.prst, electrical s.cfg.pcsAssertedLevel s.pcs,
   electrical s.cfg.tcsAssertedLevel s.tcs)

/-- The least number of block clock cycles of `WAIT(t)`: `ceil(t · F_CLK / 10^6)` (rule R80). -/
def waitClocks (c : Config) (t : Nat) : Nat := (t * c.fClk + 999999) / 1000000

/-- The SCLK periods of an event at F_FAST (rules R78, R340). -/
def Event.fastPeriods : Event → Nat
  | .ptx _ _ => 8
  | _ => 0

/-- The SCLK periods of an event at F_SLOW (rules R78, R340). -/
def Event.slowPeriods : Event → Nat
  | .ttx _ => 8
  | .trx _ => 8
  | _ => 0

/-- The least microseconds of an event's wait (rule R80). -/
def Event.waitMicros : Event → Nat
  | .wait t => t
  | _ => 0

/-- The lower bounds on the duration of a run of events: waited microseconds, and SCLK periods at F_FAST and at F_SLOW
(rule R340). -/
def leastDuration (es : List Event) : Nat × Nat × Nat :=
  ((es.map Event.waitMicros).sum, (es.map Event.fastPeriods).sum, (es.map Event.slowPeriods).sum)

end Sys2Proof.Machine
end

