-- ==== Sys2Proof/Tests/Slice0.lean ====
section
/-! SUPPORT. The model's own tests: the checks of WellFormed, words written out from the spec's encoding, one small
step per command with the results the spec gives for it (40 to 43, 95_test_vectors.md), and for every statement with
hypotheses a state that meets them. -/

namespace Sys2Proof.Tests

open Sys2Proof.Machine

/-! ### WellFormed -/

theorem test_wf_point_refuses_five_bit_size : Instr.wellFormed (.drawPoint 16 .anchored) = false := by decide
theorem test_wf_line_refuses_five_bit_size : Instr.wellFormed (.drawLine 16 .solid .anchored) = false := by decide
theorem test_wf_rect_refuses_five_bit_size : Instr.wellFormed (.drawRect 16 .solid .filled .anchored) = false := by
  decide
theorem test_wf_circle_refuses_five_bit_size : Instr.wellFormed (.drawCircle 16 .stroked .anchored) = false := by
  decide

/-! ### Decoding: words from the layouts of rule R112, byte by byte with OP last -/

theorem test_decode_nop : decode (0b00000000#8 ++ 0b00000000#8 ++ 0b00000000#8 ++ 0b00000000#8) = .instr .nop := by
  decide
theorem test_decode_begin : decode (0b11001000#8 ++ 0b00000101#8 ++ 0b00000000#8 ++ 0b00000001#8) =
    .instr (.beginPanel 5 200) := by decide
theorem test_decode_set_orient : decode (0b00000000#8 ++ 0b00000011#8 ++ 0b00000000#8 ++ 0b00000010#8) =
    .instr (.setOrient 3) := by decide
theorem test_decode_set_window : decode (0b00000000#8 ++ 0b00000000#8 ++ 0b00000000#8 ++ 0b00000011#8) =
    .instr .setWindow := by decide
theorem test_decode_stream : decode (0b00000000#8 ++ 0b00000000#8 ++ 0b00000000#8 ++ 0b00000100#8) =
    .instr .stream := by decide
theorem test_decode_set_pixel : decode (0b00000000#8 ++ 0b00000000#8 ++ 0b00000000#8 ++ 0b00000101#8) =
    .instr .setPixel := by decide
theorem test_decode_fill_area : decode (0b00000000#8 ++ 0b00000000#8 ++ 0b00000000#8 ++ 0b00000110#8) =
    .instr .fillArea := by decide
theorem test_decode_clear : decode (0b00000000#8 ++ 0b00000000#8 ++ 0b00000000#8 ++ 0b00000111#8) =
    .instr .clear := by decide
theorem test_decode_draw_point : decode (0b00000000#8 ++ 0b00000000#8 ++ 0b01000010#8 ++ 0b00010000#8) =
    .instr (.drawPoint 2 .fillAround) := by decide
theorem test_decode_draw_line : decode (0b00000000#8 ++ 0b00000000#8 ++ 0b00010011#8 ++ 0b00010001#8) =
    .instr (.drawLine 3 .dotted .anchored) := by decide
theorem test_decode_draw_rect : decode (0b00000000#8 ++ 0b00000000#8 ++ 0b00100001#8 ++ 0b00010010#8) =
    .instr (.drawRect 1 .solid .filled .anchored) := by decide
theorem test_decode_draw_circle : decode (0b00000000#8 ++ 0b00000000#8 ++ 0b01101000#8 ++ 0b00010011#8) =
    .instr (.drawCircle 8 .filled .fillAround) := by decide
theorem test_decode_touch_raw : decode (0b00000000#8 ++ 0b00000000#8 ++ 0b00000000#8 ++ 0b00100000#8) =
    .instr .touchRaw := by decide
theorem test_decode_touch_avg : decode (0b00000000#8 ++ 0b00000000#8 ++ 0b00000000#8 ++ 0b00100001#8) =
    .instr .touchAvg := by decide
theorem test_decode_touch_twice : decode (0b00000000#8 ++ 0b00000000#8 ++ 0b00000000#8 ++ 0b00100010#8) =
    .instr .touchTwice := by decide
theorem test_decode_touch_scan : decode (0b00000000#8 ++ 0b00000000#8 ++ 0b00000000#8 ++ 0b00100011#8) =
    .instr .touchScan := by decide
theorem test_decode_map : decode (0b00000000#8 ++ 0b00000000#8 ++ 0b00000000#8 ++ 0b00110000#8) = .instr .map := by
  decide

/-- DRAW_LINE with SZ = 0 is a command (rule R115). -/
theorem test_decode_size_zero : decode 0x00000011 = .instr (.drawLine 0 .solid .anchored) := by decide
/-- LS is reserved in DRAW_POINT (rule R113). -/
theorem test_decode_reserved_style_bit : decode 0x00001310 = .illegal .reservedBit := by decide
/-- OP 0x08 is unassigned (rule R118). -/
theorem test_decode_unassigned : decode 0x00000008 = .illegal .unassignedOp := by decide
/-- A number wider than a command word is no command. -/
theorem test_table_word_too_wide : decodeTableWord 40 0x0100000007 = none := by decide

/-! ### States -/

/-- The test configuration TC (95_test_vectors.md section 1.1); the rates only meet their constraint. -/
def tcConfig : Config :=
  { base := 0, nativeW := 16, nativeH := 12, fClk := 1000000, fFast := 2, fSlow := 1
    tRstPre := 1000, tRstHold := 10000, tRstPost := 120000
    initTable := [⟨0x01, [], 5000⟩, ⟨0x3A, [0x55], 0⟩]
    orientRegs := #v[[⟨0x36, [0x08]⟩], [⟨0x36, [0x48]⟩], [⟨0x36, [0x88]⟩], [⟨0x36, [0xC8]⟩],
      [⟨0x36, [0x28]⟩], [⟨0x36, [0x68]⟩], [⟨0x36, [0xA8]⟩], [⟨0x36, [0xE8]⟩]]
    tOrientSettle := 200, tSlpout := 120000, tDispon := 20000
    regCaset := 0x2A, regPaset := 0x2B, regRamwr := 0x2C, regSlpout := 0x11, regDispon := 0x29
    touchCmdX := 0xD0, touchCmdY := 0x90, tTsettle := 3, tInter := 0, touchN := 5, touchTol := 50
    penDetect := false, orientMap := defaultOrientMap, lineAxisSwap := false
    prstAssertedLevel := false, pcsAssertedLevel := false, tcsAssertedLevel := false }

/-- Right after reset, under TC. -/
def tcState : State := { State.reset with cfg := tcConfig }

/-- A panel that is ready, with these arguments; its window is the pixel (0, 0). -/
def readyState (a0 a1 a2 a3 : Word) : State :=
  { tcState with
    status := { Status.reset with ready := true, winopen := true }
    arg := ⟨a0, a1, a2, a3⟩
    panel := { Panel.reset with
      xs := some 0, xe := some 0, ys := some 0, ye := some 0, mode := .write (some (0, 0)) none } }

/-- A running command with nothing left to send. -/
def ending (i : Instr) (rx : List Byte) : Running := { cmd := i, todo := [], rx := rx, pen := none, ramwr := false }

/-- A machine that runs a command. -/
def runningState (i : Instr) (todo : List Slot) (rx : List Byte) : State :=
  { readyState 0 0 0 0 with engine := .run { ending i rx with todo := todo } }

/-- The slots a started command still has to make. -/
def planned : Host.Outcome State Fault Refusal → List Slot
  | .next s =>
    match s.engine with
    | .idle => []
    | .run r => r.todo
  | .fault _ => []
  | .refused _ => []

/-- Known events as slots. -/
def sent (es : List Event) : List Slot := es.map Slot.emit

/-- The eleven events of one P_WINDOW under TC, coordinates below 256. -/
def win (x0 y0 x1 y1 : Byte) : List Event :=
  [.ptx .command 0x2A, .ptx .data 0, .ptx .data x0, .ptx .data 0, .ptx .data x1,
   .ptx .command 0x2B, .ptx .data 0, .ptx .data y0, .ptx .data 0, .ptx .data y1, .ptx .command 0x2C]

/-- The samples of constant codes, as response bytes of rule R231 (a code is sent as its eightfold). -/
def constantSamples (n x y : Nat) : List Byte :=
  (List.replicate n [BitVec.ofNat 8 (x * 8 / 256), BitVec.ofNat 8 (x * 8 % 256),
    BitVec.ofNat 8 (y * 8 / 256), BitVec.ofNat 8 (y * 8 % 256)]).flatten

/-- The calibration of rule R270's example in bank 0. -/
def calibrated (s : State) : State :=
  { s with cal := setEntry s.cal 0 ⟨0x3B800000, 0x3B400000, 0xBFC00000, 0x3E800000⟩, calValid := 0x01 }

/-! ### One step per command -/

/-- Rule R140: NOP sends nothing. -/
theorem test_nop_sends_nothing : planned (execNop tcState) = [] := by decide
/-- Rule R140: STATUS reads DONE alone after it. -/
theorem test_nop_sets_done : (commit (ending .nop []) tcState).readReg .status = 0x100 := by decide

/-- Rule R147: the log of BEGIN.o0.bl255. -/
theorem test_begin_log : planned (execBegin 0 255 tcState) =
    sent [.rst .released, .wait 1000, .rst .asserted, .wait 10000, .rst .released, .wait 120000,
     .opened .panel .fast, .ptx .command 0x01, .wait 5000, .ptx .command 0x3A, .ptx .data 0x55,
     .ptx .command 0x36, .ptx .data 0x08, .wait 200, .ptx .command 0x11, .wait 120000, .ptx .command 0x29,
     .wait 20000, .closed .panel, .bl 255] := by decide
/-- Rules R147, R49: READY, DIRTY and DONE after it, and GEOM `0x000C0010`. -/
theorem test_begin_commits : (commit (ending (.beginPanel 0 255) []) tcState).readReg .status = 0x106 ∧
    (commit (ending (.beginPanel 0 255) []) tcState).readReg .geom = 0x000C0010 := by decide

/-- Rule R150: the log of SET_ORIENT.o4. -/
theorem test_set_orient_log : planned (execSetOrient 4 (readyState 0 0 0 0)) =
    sent [.opened .panel .fast, .ptx .command 0x36, .ptx .data 0x28, .closed .panel] := by decide
/-- Rule R150: GEOM reads `0x0010000C` after it. -/
theorem test_set_orient_swaps_dimensions :
    (commit (ending (.setOrient 4) []) (readyState 0 0 0 0)).readReg .geom = 0x0010000C := by decide

/-- Rule R153: the log of SET_WINDOW (1, 2) to (3, 4). -/
theorem test_set_window_log : planned (execSetWindow (readyState 0x00020001 0x00040003 0 0)) =
    sent (.opened .panel .fast :: win 1 2 3 4 ++ [.closed .panel]) := by decide
/-- Rule R154: X1 = W is dropped whole. -/
theorem test_set_window_off_panel : planned (execSetWindow (readyState 0 0x00000010 0 0)) = [] := by decide

/-- Rule R156: STREAM of two words of `0x07E0`. -/
theorem test_stream_log : planned (execStream (readyState 0 0 0x07E0 2)) =
    sent [.opened .panel .fast, .ptx .data 0x07, .ptx .data 0xE0, .ptx .data 0x07, .ptx .data 0xE0,
     .closed .panel] := by decide
/-- Rules R156, R23: without a window, ESEQ and DONE. -/
theorem test_stream_without_window : (commit (ending .stream []) tcState).readReg .status = 0x2100 := by decide

/-- Rule R159: SET_PIXEL at (15, 11) with `0xF800`. -/
theorem test_set_pixel_log : planned (execSetPixel (readyState 0x000B000F 0 0xF800 0)) =
    sent (.opened .panel .fast :: win 15 11 15 11 ++
      [.ptx .data 0xF8, .ptx .data 0x00, .closed .panel]) := by decide
/-- Rule R159: at (16, 0) nothing. -/
theorem test_set_pixel_off_panel : planned (execSetPixel (readyState 0x00000010 0 0xF800 0)) = [] := by decide

/-- Rules R146, R340: a 2×2 area is one window and four words. -/
theorem test_fill_area_length :
    (planned (execFillArea (readyState 0 0x00010001 0xF800 0))).length = 2 + (11 + 2 * 2 * 2) := by decide
/-- Rule R162: a reversed area is dropped. -/
theorem test_fill_area_reversed : planned (execFillArea (readyState 0x00000001 0 0xF800 0)) = [] := by decide

/-- Rule R165: CLEAR fills (0, 0) to (15, 11). -/
theorem test_clear_steps : clearDraws (readyState 0 0 0 0) = [.fill 0 0 15 11 0] := by decide
/-- Rule R165: DIRTY is 0 and WINOPEN 1 after it. -/
theorem test_clear_commits : ((commit { ending .clear [] with ramwr := true }
    { tcState with status := { Status.reset with ready := true, dirty := true } }).readReg .status) = 0x10A := by
  decide

/-- Rule R200: DRAW_POINT.s2 at (3, 4). -/
theorem test_draw_point_steps :
    drawPointDraws 2 .anchored ((readyState 0x00040003 0 1 0).latch (.drawPoint 2 .anchored)) =
    [.pixel 3 4 1, .pixel 4 4 1, .pixel 3 5 1, .pixel 4 5 1] := by decide
/-- Rule R201: an anchor at x = W writes nothing. -/
theorem test_draw_point_off_panel :
    planned (execDrawPoint 8 .fillAround (readyState 0x00000010 0 1 0)) = [] := by decide

/-- Rule R203: DRAW_LINE from (0, 0) to (3, 1). -/
theorem test_draw_line_steps :
    drawLineDraws 1 .solid .anchored ((readyState 0 0x00010003 1 0).latch .nop) =
    [.pixel 0 0 1, .pixel 1 0 1, .pixel 2 1 1, .pixel 3 1 1] := by decide
/-- Rule R204: a dotted line from (0, 0) to (6, 0), FG 1 and BG 2. -/
theorem test_draw_line_dotted :
    drawLineDraws 1 .dotted .anchored ((readyState 0 0x00000006 0x00020001 0).latch .nop) =
    [.pixel 0 0 1, .pixel 1 0 1, .pixel 2 0 2, .pixel 3 0 1, .pixel 4 0 1, .pixel 5 0 2, .pixel 6 0 1] := by decide

/-- Rules R196, R207: a stroked 1×1 rectangle is four windows, clipped bands two pixels long. -/
theorem test_draw_rect_stroked :
    drawRectDraws 1 .solid .stroked .anchored ((readyState 0x00030003 0x00030003 1 0).latch .nop) =
    [.fill 3 3 4 3 1, .fill 3 3 3 4 1, .fill 3 3 3 4 1, .fill 3 3 4 3 1] := by decide
/-- Rules R197, R198: a filled rectangle is one window of the ordered corners. -/
theorem test_draw_rect_filled :
    drawRectDraws 1 .solid .filled .anchored ((readyState 0x00050005 0x00020001 1 0).latch .nop) =
    [.fill 1 2 5 5 1] := by decide

/-- Rule R211: R = 0, stroked, is eight stamps at the centre. -/
theorem test_draw_circle_radius_zero :
    drawCircleDraws 1 .stroked .anchored ((readyState 0x00050005 0 1 0).latch .nop) =
    List.replicate 8 (.pixel 5 5 1) := by decide
/-- Rule R210: the outline of radius 2 about (5, 5) has the listed pixels and no other. -/
theorem test_draw_circle_radius_two :
    let expected : List (Int × Int) :=
      [(5, 7), (5, 3), (7, 5), (3, 5), (6, 7), (4, 7), (3, 6), (3, 4), (4, 3), (6, 3), (7, 4), (7, 6)]
    (∀ p ∈ strokedPoints 5 5 2, p ∈ expected) ∧ ∀ p ∈ expected, p ∈ strokedPoints 5 5 2 := by decide

/-- Rule R236: the log of TOUCH_RAW, its bytes to come. -/
theorem test_touch_raw_log : planned (execTouchRaw tcState) =
    [.emit (.opened .touch .slow), .emit (.ttx 0xD0), .emit (.wait 3), .receive, .receive,
     .emit (.ttx 0x90), .emit (.wait 3), .receive, .receive, .emit (.closed .touch)] := by decide
/-- Rule R236: TRAW after the bytes 55 E7 3E 80. -/
theorem test_touch_raw_result :
    (commit (ending .touchRaw [0x55, 0xE7, 0x3E, 0x80]) tcState).readReg .traw = 0x07D00ABC := by decide

/-- Rule R239: X samples 100, 102, 98, 101, 99 and Y = 2000. -/
theorem test_touch_avg_result :
    (commit (ending .touchAvg (constantSamples 1 100 2000 ++ constantSamples 1 102 2000 ++
      constantSamples 1 98 2000 ++ constantSamples 1 101 2000 ++ constantSamples 1 99 2000)) tcState).readReg .traw =
    0x07D00064 := by decide
/-- Rule R240: five samples of 0, 0, 0, 0, 8191 average to 0, and of 1, 1, 2, 2, 9 to 1. -/
theorem test_touch_avg_outliers : trimmedMean 5 [0, 0, 0, 0, 8191] = 0 ∧ trimmedMean 5 [1, 1, 2, 2, 9] = 1 := by
  decide

/-- Rule R241: the averages (100, 2000) and (150, 2010) agree; TRAW and STATUS. -/
theorem test_touch_twice_agrees :
    let t := commit (ending .touchTwice (constantSamples 5 100 2000 ++ constantSamples 5 150 2010)) tcState
    t.readReg .traw = 0x07D5007D ∧ t.readReg .status = 0x110 := by decide
/-- Rule R242: 100 and 151 disagree; TRAW keeps its value. -/
theorem test_touch_twice_disagrees :
    let t := commit (ending .touchTwice (constantSamples 5 100 2000 ++ constantSamples 5 151 2000))
      { tcState with traw := 0x12345678 }
    t.readReg .traw = 0x12345678 ∧ t.readReg .status = 0x100 := by decide

/-- Rule R244: a press at (2048, 3000) maps to (6, 9) and sets PRESSED, TVALID and JUSTP. -/
theorem test_touch_scan_press :
    let t := commit (ending .touchScan (constantSamples 10 2048 3000)) (calibrated tcState)
    t.readReg .traw = 0x0BB80800 ∧ t.readReg .tsx = 6 ∧ t.readReg .tsy = 9 ∧ t.readReg .status = 0x10130 := by decide
/-- Rule R245: pen up clears PRESSED and TVALID and leaves TRAW. -/
theorem test_touch_scan_pen_up :
    let t := commit { ending .touchScan [] with pen := some .up }
      { tcState with traw := 0x12345678, status := { Status.reset with pressed := true, tvalid := true } }
    t.readReg .traw = 0x12345678 ∧ t.readReg .status = 0x100 := by decide

/-- Rule R270: RX = 2048 and RY = 3000 map to (6, 9). -/
theorem test_map_result :
    let t := commit (ending .map []) (calibrated { tcState with argl := ⟨0x0BB80800, 0, 0, 0⟩ })
    t.readReg .tsx = 6 ∧ t.readReg .tsy = 9 ∧ t.readReg .status = 0x100 := by decide
/-- Rules R268, R271: 2^31 is not representable, and -0.5 truncates to 0. -/
theorem test_map_limits : truncS32 (F32.ofBits 0x4F000000) = none ∧ truncS32 (F32.ofBits 0xBF000000) = some 0 := by
  decide

/-! ### The host, the wires and the panel -/

/-- Rule R54: GEOM reads dims(0) after reset. -/
theorem test_reset_geometry : tcState.readReg .geom = 0x000C0010 := by decide
/-- Rule R70: a halfword access is refused. -/
theorem test_narrow_access_refused : isNext (tcState.access (.read 0x04 2)) = false := by decide
/-- The table word of CLEAR runs as the next step (log entry 2). -/
theorem test_fetch_word_runs :
    step ((readyState 0 0 0 0).withFetchWord 32 0x00000007) = exec .clear (readyState 0 0 0 0) := rfl
/-- Rule R78: most significant bit first. -/
theorem test_wire_order : wireBits 0xC1 = [true, true, false, false, false, false, false, true] := by decide
/-- Rule R80: 3 microseconds at 1 MHz are three clocks. -/
theorem test_wait_clocks : waitClocks tcConfig 3 = 3 := by decide
/-- Rule R89: the second word of a row's last column starts the next row. -/
theorem test_panel_row_wrap : advancePointer 1 3 (3, 4) = (1, 5) := by decide
/-- Rule R120: DRAW_LINE.s3.dot assembles to `0x00001311`, and DRAW_POINT.dot is an error. -/
theorem test_assembler : (assemble "DRAW_LINE" [.s 3, .dot]).map encode = some 0x00001311 ∧
    assemble "DRAW_POINT" [.dot] = none := by decide

/-! ### Statements with hypotheses: a state and operands that meet them together

Each theorem is named after its statement and says its hypotheses at concrete values; where a statement has several
clauses, one value for each, at the ends of its range. -/

theorem witness_DecodeEncodeRoundTrip :
    Instr.wellFormed (.drawRect 15 .dotted .filled .fillAround) = true ∧
    Instr.wellFormed (.drawCircle 0 .stroked .anchored) = true ∧ Instr.wellFormed (.beginPanel 7 255) = true := by
  decide

theorem witness_EncodeOfDecodedWord : decode 0xFF070001 = .instr (.beginPanel 7 255) ∧
    decode 0x00007F12 = .instr (.drawRect 15 .dotted .filled .fillAround) := by decide

theorem witness_IllegalWordsSetIllAndDone :
    let s := { tcState with inputs := [commandInput 0x000000FF] }
    s.inputs = commandInput 0x000000FF :: [] ∧ s.busy = false ∧ decode 0x000000FF = .illegal .unassignedOp := by
  decide

theorem witness_WorkedEncodingsOfTheSpec : tcState.busy = false := by decide

theorem witness_StepRunsTheDecodedCommand :
    let s := { tcState with inputs := [.access (.write cmdOffset 4 0x00000030) true] }
    s.inputs = .access (.write cmdOffset 4 0x00000030) true :: [] ∧ s.busy = false ∧
      decode 0x00000030 = .instr .map := by decide

theorem witness_FetchWordRunsTheTableWord :
    32 ≤ 32 ∧ tcState.busy = false ∧ decodeTableWord 32 0xFF070001 = some (.beginPanel 7 255) := by decide

theorem witness_CommandWhileBusyOnlySetsOvr : (runningState .clear [.receive] []).busy = true := by decide

/-- Sizes 0, 9 and 15 for the first clause; a command without a size and sizes 1 and 8 for the second. -/
theorem witness_RejectionsOfTheFieldAndReadyChecks :
    tcState.busy = false ∧ (0 = 0 ∨ 8 < 0) ∧ (9 = 0 ∨ 8 < 9) ∧ (15 = 0 ∨ 8 < 15) ∧
    tcState.status.ready = false ∧ needsReady .clear = true ∧ needsReady (.drawPoint 1 .anchored) = true ∧
    needsReady (.drawCircle 8 .filled .fillAround) = true := by decide

theorem witness_NopCompletes : tcState.atRest := ⟨rfl, rfl⟩

theorem witness_BeginCompletes : tcState.atRest := ⟨rfl, rfl⟩

/-- A ready machine at rest; every command that needs READY starts from one like it. -/
theorem readyState_atRest (a0 a1 a2 a3 : Word) :
    (readyState a0 a1 a2 a3).atRest ∧ (readyState a0 a1 a2 a3).status.ready = true := ⟨⟨rfl, rfl⟩, rfl⟩

theorem witness_SetOrientCompletes : (readyState 0 0 0 0).atRest ∧ (readyState 0 0 0 0).status.ready = true :=
  readyState_atRest ..

/-- The window to (W - 1, H - 1) is sent; X1 = W is dropped, and so is a reversed one. -/
theorem witness_SetWindowCompletes :
    (readyState 0 0x000B000F 0 0).atRest ∧ (readyState 0 0x000B000F 0 0).status.ready = true ∧
    (let a := (readyState 0 0x000B000F 0 0).arg
     a.x0 ≤ a.x1 ∧ a.x1 < width tcConfig 0 ∧ a.y0 ≤ a.y1 ∧ a.y1 < height tcConfig 0) ∧
    ¬(readyState 0 0x00000010 0 0).arg.x1 < width tcConfig 0 ∧
    ¬(readyState 1 0 0 0).arg.x0 ≤ (readyState 1 0 0 0).arg.x1 := ⟨⟨rfl, rfl⟩, rfl, by decide, by decide, by decide⟩

/-- With a window open, N = 0 and N = 2; and without. -/
theorem witness_StreamCompletes :
    (readyState 0 0 0 2).atRest ∧ (readyState 0 0 0 2).status.ready = true ∧
    (readyState 0 0 0 2).status.winopen = true ∧ (readyState 0 0 0 0).arg.count = 0 ∧
    ({ Status.reset with ready := true } : Status).winopen = false := ⟨⟨rfl, rfl⟩, rfl, rfl, rfl, rfl⟩

/-- The last pixel on the panel, and the first off it. -/
theorem witness_SetPixelCompletes :
    (readyState 0x000B000F 0 1 0).atRest ∧ (readyState 0x000B000F 0 1 0).status.ready = true ∧
    (readyState 0x000B000F 0 1 0).arg.x0 < width tcConfig 0 ∧ (readyState 0x000B000F 0 1 0).arg.y0 < height tcConfig 0 ∧
    ¬(readyState 0x00000010 0 1 0).arg.x0 < width tcConfig 0 := ⟨⟨rfl, rfl⟩, rfl, by decide, by decide, by decide⟩

theorem witness_FillAreaCompletes :
    (readyState 0 0x000B000F 1 0).atRest ∧ (readyState 0 0x000B000F 1 0).status.ready = true ∧
    (readyState 0 0x000B000F 1 0).arg.x1 < width tcConfig 0 ∧
    ¬(readyState 0 0x000C000F 1 0).arg.y1 < height tcConfig 0 := ⟨⟨rfl, rfl⟩, rfl, by decide, by decide⟩

theorem witness_ClearCompletes :
    (readyState 0 0 1 0).atRest ∧ (readyState 0 0 1 0).status.ready = true ∧ (readyState 0 0 1 0).cfg.wf = true :=
  ⟨⟨rfl, rfl⟩, rfl, by decide⟩

/-- Sizes 1 and 8; an anchor on the panel and one off it. -/
theorem witness_DrawPointCompletes :
    (readyState 0x000B000F 0 1 0).atRest ∧ (readyState 0x000B000F 0 1 0).status.ready = true ∧ 1 ≤ 1 ∧ 8 ≤ 8 ∧
    (readyState 0x000B000F 0 1 0).arg.y0 < height tcConfig 0 ∧
    ¬(readyState 0x000C0000 0 1 0).arg.y0 < height tcConfig 0 :=
  ⟨⟨rfl, rfl⟩, rfl, by decide, by decide, by decide, by decide⟩

theorem witness_DrawLineCompletes :
    (readyState 0 0x0001FFFF 1 0).atRest ∧ (readyState 0 0x0001FFFF 1 0).status.ready = true ∧ 1 ≤ 8 ∧ 8 ≤ 8 :=
  ⟨⟨rfl, rfl⟩, rfl, by decide, by decide⟩

theorem witness_DrawRectCompletes :
    (readyState 0x00050005 0 1 0).atRest ∧ (readyState 0x00050005 0 1 0).status.ready = true ∧ 1 ≤ 1 ∧ 1 ≤ 8 :=
  ⟨⟨rfl, rfl⟩, rfl, by decide, by decide⟩

theorem witness_DrawCircleCompletes :
    (readyState 0x00050005 0 1 2).atRest ∧ (readyState 0x00050005 0 1 2).status.ready = true ∧ 1 ≤ 8 ∧ 8 ≤ 8 :=
  ⟨⟨rfl, rfl⟩, rfl, by decide, by decide⟩

/-- With the bytes given, and with none given. -/
theorem witness_TouchRawCompletes :
    ({ tcState with touchIn := [0x55, 0xE7, 0x3E, 0x80, 0x00] } : State).atRest ∧ tcState.atRest :=
  ⟨⟨rfl, rfl⟩, ⟨rfl, rfl⟩⟩

theorem witness_TouchAvgCompletes : tcState.atRest ∧ tcState.cfg.wf = true := ⟨⟨rfl, rfl⟩, by decide⟩

theorem witness_TouchTwiceCompletes : tcState.atRest ∧ tcState.cfg.wf = true := ⟨⟨rfl, rfl⟩, by decide⟩

theorem witness_TouchScanCompletes :
    tcState.atRest ∧ tcState.cfg.wf = true ∧ tcState.cfg.penDetect = false := ⟨⟨rfl, rfl⟩, by decide, rfl⟩

/-- With a level given, up and down. -/
theorem witness_TouchScanWithPenCompletes :
    let s := { tcState with cfg := { tcConfig with penDetect := true }, penIn := [.up, .down] }
    s.atRest ∧ s.cfg.wf = true ∧ s.cfg.penDetect = true ∧ s.penIn.head? = some .up ∧
      s.penIn.tail.head? = some .down := ⟨⟨rfl, rfl⟩, by decide, rfl, rfl, rfl⟩

/-- A bank that is valid under a supported orientation, one that is not valid, and an unsupported orientation. -/
theorem witness_MapCompletes :
    (calibrated tcState).atRest ∧ (calibrated tcState).calValid.getLsbD 0 = true ∧
    (entry tcConfig.orientMap 0).supported = true ∧ tcState.calValid.getLsbD 0 = false ∧
    (entry tcConfig.orientMap 1).supported = false := ⟨⟨rfl, rfl⟩, by decide, by decide, by decide, by decide⟩

theorem witness_EveryCommandCommits :
    (runningState .clear [.samplePen, .samplePen, .receive] []).busy = true ∧
    (runningState .clear [.samplePen, .samplePen, .receive] []).inputs = [] := by decide

/-- In the middle of a command and at its commit; under POLL, beside reads of the first and the last offset, with no
input left; and a host write beside which the command goes on. -/
theorem witness_ResultsAppearAtCommit :
    let s := { runningState .touchRaw [.receive] [] with inputs := [.engine] }
    let u := { runningState .touchRaw [] [] with inputs := [.poll] }
    let v := { runningState .map [] [] with inputs := [.access (.read 0x7C 4) true] }
    let w := { runningState .clear [.emit (.wait 3)] [] with inputs := [.access (.write 0x04 4 0) false] }
    (s.engine = .run { ending .touchRaw [] with todo := [.receive] } ∧ s.inputs.head? = some .engine) ∧
    (u.engine = .run (ending .touchRaw []) ∧ u.inputs.head? = some .poll) ∧
    (v.engine = .run (ending .map []) ∧ v.inputs.head? = some (.access (.read 0x7C 4) true) ∧ 0x7C % 4 = 0 ∧
      0x7C < 0x80 ∧ 0 % 4 = 0) ∧
    (runningState .map [] []).inputs = [] ∧ step w = .next { w with inputs := [] } ∧ w.busy = true :=
  ⟨⟨rfl, rfl⟩, ⟨rfl, rfl⟩, ⟨rfl, rfl, rfl, by decide, rfl⟩, rfl, rfl, rfl⟩

/-- An idle step, an abort, a commit, a wait, a known event, and a pen level that ends the scan. -/
theorem witness_EventsOfCommandsNeverInterleave :
    let a := { runningState .clear [.receive] [] with inputs := [.reset none] }
    let c := runningState .clear [] []
    let w := { runningState .clear [.receive] [] with inputs := [.access (.read 0x04 4) false] }
    let e := runningState .clear [.emit (.wait 3)] []
    let p := { runningState .touchScan [.samplePen, .receive] [] with penIn := [.up] }
    (step tcState = .next tcState ∧ tcState.busy = false) ∧
    (step a = .next (State.blockReset { a with inputs := [] }) ∧ a.busy = true) ∧
    (step c = .next (engineStep c) ∧ c.engine = .run (ending .clear [])) ∧
    (step w = .next (State.deliver 0x04 (w.readReg .status) { w with inputs := [] }) ∧ w.busy = true) ∧
    (step e = .next (engineStep e) ∧ e.engine = .run { ending .clear [] with todo := [.emit (.wait 3)] }) ∧
    step p = .next (engineStep p) ∧ (engineStep p).log = [.pen .up] ∧
      (engineStep p).engine = .run { ending .touchScan [] with pen := some .up } :=
  ⟨⟨rfl, rfl⟩, ⟨rfl, rfl⟩, ⟨rfl, rfl⟩, ⟨rfl, rfl⟩, ⟨rfl, rfl⟩, rfl, rfl, rfl⟩

theorem witness_ArgumentPreloadIsSafe : (runningState .setPixel [.emit (.wait 3)] []).busy = true := by decide

theorem witness_WritesReachTheirRegister :
    0x48 % 4 = 0 ∧ 0x48 ≤ 0x48 ∧ 0x48 < 0x80 ∧ 0x7C % 4 = 0 ∧ 0x48 ≤ 0x7C ∧ 0x7C < 0x80 ∧ tcState.busy = false := by
  decide

/-- An idle machine whose write clears DONE; a CLEAR that makes an event in the same cycle; and a MAP without a valid
bank and a STREAM without a window that commit in it. -/
theorem witness_StatusWriteClearsAndSettingWins :
    let a := Input.access (.write 0x04 4 0x0001FF00) true
    let s := { tcState with inputs := [a], status := { Status.reset with done := true } }
    let e := { runningState .clear [.emit (.wait 3)] [] with inputs := [a] }
    let u := { runningState .map [] [] with inputs := [a] }
    let w := { runningState .stream [] [] with inputs := [a], status := { Status.reset with ready := true } }
    s.inputs = a :: [] ∧ s.busy = false ∧ e.engine = .run { ending .clear [] with todo := [.emit (.wait 3)] } ∧
    u.engine = .run (ending .map []) ∧ (ending .map []).todo = [] ∧
    u.xform u.argl.x0 u.argl.y0 = .unsupported ∧ w.engine = .run (ending .stream []) ∧ w.status.winopen = false := by
  decide

/-- A press on a machine that was not pressed, and a transform that is not representable, both at their commit. -/
theorem witness_StatusWriteClearsAndSettingWins_scan :
    let u := runningState .touchScan [] (constantSamples 10 2048 3000)
    let v := { runningState .map [] [] with
      cal := setEntry (Vector.replicate 8 CalBank.reset) 0 ⟨0x7FC00000, 0, 0, 0⟩, calValid := 0x01 }
    scanPressed u.cfg (ending .touchScan (constantSamples 10 2048 3000)) = true ∧ u.status.pressed = false ∧
    v.xform v.argl.x0 v.argl.y0 = .unrepresentable := by decide

theorem witness_OverrunDropsCalibrationWrites : (runningState .map [] []).busy = true := by decide

/-- The last offset of the window, the first outside it, an unaligned one and a narrow access. -/
theorem witness_OnlyUnsupportedAccessesAreRefused :
    (4 = 4 ∧ 0x7C % 4 = 0 ∧ 0x7C < 0x80) ∧ ¬(4 = 4 ∧ 0x80 % 4 = 0 ∧ 0x80 < 0x80) ∧ ¬(4 = 4 ∧ 6 % 4 = 0 ∧ 6 < 0x80) ∧
    ¬(2 = 4 ∧ 4 % 4 = 0 ∧ 4 < 0x80) := by decide

/-- A write to the last offset, a read of the first and of GEOM, and no access. -/
theorem witness_BlockResetValues :
    let resetting := fun a : Option Access => { runningState .clear [.receive] [] with inputs := [.reset a] }
    (resetting (some (.write 0x7C 4 0xFFFFFFFF))).inputs = .reset (some (.write 0x7C 4 0xFFFFFFFF)) :: [] ∧
    (resetting (some (.read 0x00 4))).inputs = .reset (some (.read 0x00 4)) :: [] ∧
    (resetting (some (.read 0x1C 4))).inputs = .reset (some (.read 0x1C 4)) :: [] ∧
    (resetting none).inputs = .reset none :: [] ∧ 0x7C % 4 = 0 ∧ 0x7C < 0x80 ∧ 0x1C % 4 = 0 ∧ 0x1C < 0x80 := by decide

theorem witness_ResetAbortsTheCommand :
    let s := { runningState .clear [.receive] [] with inputs := [.reset none] }
    s.inputs = .reset none :: [] ∧ s.busy = true := by decide

theorem witness_EveryStepKeepsTheInvariant :
    let s := runningState .touchRaw [.emit (.wait 3)] []
    s.Inv ∧ step s = .next (engineStep s) := ⟨⟨by decide, rfl, by decide, by decide, by decide⟩, rfl⟩

/-- One step for each register the statement names. -/
theorem witness_RegistersHaveOneWriter :
    let o := runningState (.setOrient 4) [] []
    let b := { runningState (.beginPanel 3 9) [] [] with status := Status.reset }
    let r := { readyState 0 0 0 0 with inputs := [.reset none] }
    let q := runningState .touchRaw [] [0x55, 0xE7, 0x3E, 0x80]
    let m := calibrated { runningState .map [] [] with argl := ⟨0x0BB80800, 0, 0, 0⟩ }
    (step o = .next (engineStep o) ∧ (engineStep o).orient ≠ o.orient) ∧
    (step b = .next (engineStep b) ∧ (engineStep b).status.ready = true ∧ b.status.ready = false) ∧
    (step r = .next (State.blockReset { r with inputs := [] }) ∧ r.status.ready = true) ∧
    (step q = .next (engineStep q) ∧ (engineStep q).traw ≠ q.traw) ∧
    (step m = .next (engineStep m) ∧ (engineStep m).tsx ≠ m.tsx) :=
  ⟨⟨rfl, by decide⟩, ⟨rfl, by decide, rfl⟩, ⟨rfl, rfl⟩, ⟨rfl, by decide⟩, ⟨rfl, by decide⟩⟩

theorem witness_RegistersHaveOneWriter_calibration :
    let s := { tcState with inputs := [.access (.write 0x44 4 0x000000FF) false] }
    step s = .next { tcState with calValid := 0xFF } ∧ (0xFF : BitVec 8) ≠ s.calValid := ⟨rfl, by decide⟩

theorem witness_OnlyTheHostClearsStickyBits :
    let s := { tcState with
      status := { Status.reset with done := true }, inputs := [.access (.write 0x04 4 0x00000100) false] }
    step s = .next tcState ∧ 8 ≤ 8 ∧ (s.readReg .status).getLsbD 8 = true ∧
      (tcState.readReg .status).getLsbD 8 = false := ⟨rfl, by decide, by decide, by decide⟩

theorem witness_OnlyBeginDrivesResetAndBacklight : tcState.atRest := ⟨rfl, rfl⟩

theorem witness_StreamAfterTouchIsRefused :
    (readyState 0 0 0 1).atRest ∧ (readyState 0 0 0 1).status.ready = true ∧
    Instr.touchScan ∈ ([.touchRaw, .touchAvg, .touchTwice, .touchScan] : List Instr) :=
  ⟨⟨rfl, rfl⟩, rfl, by decide⟩

theorem witness_SetWindowAddressesThePanel :
    let s := readyState 0 0x000B000F 0 0
    s.atRest ∧ s.status.ready = true ∧ s.panel.steady = true ∧ panelBytesDistinct s.cfg = true ∧
      s.arg.x1 < width s.cfg s.orient ∧ s.arg.y1 < height s.cfg s.orient :=
  ⟨⟨rfl, rfl⟩, rfl, rfl, by decide, by decide, by decide⟩

/-- A window of one pixel: filled by N = 1, full and left alone by N = 0, overrun by N = 2. -/
theorem witness_StreamFillsTheOpenWindow :
    let s := readyState 0 0 0x07E0 2
    s.atRest ∧ s.status.ready = true ∧ s.status.winopen = true ∧
    s.panel.xs = some 0 ∧ s.panel.xe = some 0 ∧ s.panel.ys = some 0 ∧ s.panel.ye = some 0 ∧
    s.panel.mode = .write (some (0 + 0 % 1, 0 + 0 / 1)) none ∧
    0 + (readyState 0 0 0x07E0 1).arg.count ≤ 1 * 1 ∧ 1 + (readyState 0 0 0x07E0 0).arg.count ≤ 1 * 1 ∧
    1 * 1 < 0 + s.arg.count := ⟨⟨rfl, rfl⟩, rfl, rfl, rfl, rfl, rfl, rfl, rfl, by decide, by decide, by decide⟩

theorem witness_DrawCommandsPaintTheirSteps :
    let s := readyState 0x000B000F 0 1 0
    s.atRest ∧ s.status.ready = true ∧ s.cfg.wf = true ∧ panelBytesDistinct s.cfg = true ∧
    s.panel.steady = true ∧ drawSteps s .setPixel = some [.pixel 15 11 1] ∧
    lastShown s.cfg s.orient 15 11 [.pixel 15 11 1] = some (.pixel 15 11 1) ∧
    lastShown s.cfg s.orient 0 0 [.pixel 15 11 1] = none :=
  ⟨⟨rfl, rfl⟩, rfl, by decide, by decide, rfl, by decide, by decide, by decide⟩

theorem witness_ClearFillsThePanel :
    (readyState 0 0 1 0).atRest ∧ (readyState 0 0 1 0).status.ready = true ∧ (readyState 0 0 1 0).cfg.wf = true ∧
    panelBytesDistinct (readyState 0 0 1 0).cfg = true := ⟨⟨rfl, rfl⟩, rfl, by decide, by decide⟩

theorem witness_NonDrawingCommandsKeepThePanel :
    tcState.atRest ∧ Instr.map ∈ ([.nop, .touchRaw, .touchAvg, .touchTwice, .touchScan, .map] : List Instr) :=
  ⟨⟨rfl, rfl⟩, by decide⟩

theorem witness_FootprintIsTheSquare : (1 : Int) ≤ 1 ∧ (1 : Int) ≤ 8 := by decide

/-- Rule R187's line (0, 0) to (1, 4): a point that is followed by another, and the endpoint. -/
theorem witness_BresenhamReachesItsEndpoint :
    (bresPoints 0 0 1 4)[0]? = some (0, 0) ∧ (bresPoints 0 0 1 4)[1]? = some (0, 1) ∧
    (bresPoints 0 0 1 4)[4]? = some (1, 4) := by decide

theorem witness_FastPathAgreesWithBresenham :
    ((0 = 0 ∧ 0 ≠ 65535) ∨ (0 ≠ 0 ∧ 0 = 65535)) ∧ ((0 = 1 ∧ 0 ≠ 0) ∨ (0 ≠ 1 ∧ 0 = 0)) ∧ 1 ≤ 1 ∧ 1 ≤ 8 := by decide

theorem witness_CirclesAreSymmetric : 2 + 1 ≤ 3 ∧ ((5 : Int) + 0, (5 : Int) + 2) ∈ strokedPoints 5 5 2 ∧
    ((5 : Int) + 0, (5 : Int) + 0) ∈ filledPoints 5 5 2 ∧ (circleSteps 2)[0]? = some (0, 2) ∧
    (circleSteps 2)[1]? = some (1, 2) ∧ (circleSteps 2)[2]? = none := by decide

theorem witness_RawCodesHaveThirteenBits : 8191 ≤ 8191 ∧ 0 ≤ 8191 := by decide

theorem witness_AveragesLieWithinTheSamples :
    3 ≤ 3 ∧ ([7, 7, 7] : List Nat).length = 3 ∧ (∀ u ∈ ([7, 7, 7] : List Nat), u = 7) ∧
    (∀ v ∈ ([0, 8191, 0] : List Nat), 0 ≤ v ∧ v ≤ 8191) := by decide

/-- The samples of rule R234's example, with their least and greatest, as the X samples of an average. -/
theorem witness_AveragesLieWithinTheSamples_mean :
    let vs := [100, 102, 98, 101, 99]
    98 ∈ vs ∧ 102 ∈ vs ∧ (∀ v ∈ vs, 98 ≤ v ∧ v ≤ 102) ∧ (vs.map fun x => (x, 7)).map Prod.fst = vs ∧
    (vs.map fun y => (7, y)).map Prod.snd = vs := by decide

theorem witness_AveragesLieWithinTheSamples_order : ([1, 2, 3] : List Nat).Perm [3, 1, 2] := by decide

theorem witness_ArithmeticRoundsTheExactResult : 16777215 < 2 ^ 24 := by decide

/-- A finite rounding, an overflow, and a candidate for the nearest value. -/
theorem witness_RoundingIsToNearestEven :
    1 ≠ 0 ∧ roundF32 false 1 0 = .fin false (2 ^ 23) (-23) ∧ roundF32 false 1 128 = .inf false ∧
    2 ^ 24 - 1 < 2 ^ 24 ∧ (-149 : Int) ≤ 104 ∧ (104 : Int) ≤ 104 := by decide

/-- Both limits: 2^31 fails and -2^31 does not. -/
theorem witness_TruncationIsTowardZero :
    (2 : ℚ) ^ 31 ≤ realValue false 1 31 ∧ realValue true 1 31 < 2 ^ 31 ∧ -2 ^ 31 ≤ realValue true 1 31 := by
  norm_num [realValue]

theorem witness_IdentityCoefficientsMapToThemselves :
    let s := { tcState with
      cal := setEntry (Vector.replicate 8 CalBank.reset) 0 ⟨0x3F800000, 0x3F800000, 0, 0⟩, calValid := 0x01 }
    65535 < 65536 ∧ s.cfg.wf = true ∧ s.cfg.orientMap = defaultOrientMap ∧ s.calValid.getLsbD s.orient.toNat = true ∧
    entry s.cal s.orient = ⟨0x3F800000, 0x3F800000, 0x00000000, 0x00000000⟩ ∧ s.orient = 0 := by decide

/-- The same at orientation 3. -/
theorem witness_IdentityCoefficientsMapToThemselves_halfTurn :
    let s := { tcState with
      orient := 3, cal := setEntry (Vector.replicate 8 CalBank.reset) 3 ⟨0x3F800000, 0x3F800000, 0, 0⟩
      calValid := 0x08 }
    s.calValid.getLsbD s.orient.toNat = true ∧ s.orient = 3 ∧
    entry s.cal s.orient = ⟨0x3F800000, 0x3F800000, 0x00000000, 0x00000000⟩ := by decide

end Sys2Proof.Tests
end

/-! Every step keeps the machine's invariant: the raw codes fit TRAW, every procedure is well sequenced, every
operation on the state keeps `State.Inv`, and so does every step. -/

namespace Sys2Proof.Machine

/-! ### Raw codes (rules R32, R231 to R235) -/

/-- Both codes of a sample have thirteen bits (rule R32). -/
def IsRawPair (p : Nat × Nat) : Prop := p.1 ≤ 8191 ∧ p.2 ≤ 8191

theorem rawCode_le (hi lo : Byte) : rawCode hi lo ≤ 8191 := by
  have hw : (hi ++ lo : Half).toNat < 2 ^ 16 := (hi ++ lo : Half).isLt
  simp only [rawCode, BitVec.toNat_ushiftRight, Nat.shiftRight_eq_div_pow]
  omega

theorem isRawPair_of_mem_samples (rx : List Byte) : ∀ p ∈ samples rx, IsRawPair p := by
  induction rx using samples.induct with
  | case1 xh xl yh yl rest ih =>
    simp only [samples, List.mem_cons, forall_eq_or_imp]
    exact ⟨⟨rawCode_le xh xl, rawCode_le yh yl⟩, ih⟩
  | case2 rx _ => simp [samples]

theorem isRawPair_rawSample (rx : List Byte) : IsRawPair (rawSample rx) := by
  have hs := isRawPair_of_mem_samples rx
  unfold rawSample
  cases h : samples rx with
  | nil => exact ⟨Nat.zero_le _, Nat.zero_le _⟩
  | cons p ps => exact hs p (h ▸ List.mem_cons_self)

theorem least_le (B : Nat) (vs : List Nat) (h : ∀ v ∈ vs, v ≤ B) : least vs ≤ B := by
  match vs with
  | [] => exact Nat.zero_le B
  | [v] => exact h v List.mem_cons_self
  | v :: _ :: _ => exact (Nat.min_le_left _ _).trans (h v List.mem_cons_self)

theorem greatest_le (B : Nat) (vs : List Nat) (h : ∀ v ∈ vs, v ≤ B) : greatest vs ≤ B := by
  induction vs with
  | nil => exact Nat.zero_le B
  | cons v vs ih =>
    rw [List.forall_mem_cons] at h
    exact Nat.max_le.2 ⟨h.1, ih h.2⟩

/-- A sum less one least and one greatest value is a sum of two values fewer. -/
theorem sum_le_least_add_greatest (B : Nat) : ∀ vs : List Nat, (∀ v ∈ vs, v ≤ B) →
    vs.sum ≤ least vs + greatest vs + (vs.length - 2) * B
  | [], _ => by simp
  | [v], _ => by simp [least]
  | [v, u], _ => by
    simp only [least, greatest, List.sum_cons, List.sum_nil, List.foldr_cons, List.foldr_nil]
    omega
  | v :: u :: w :: ws, h => by
    obtain ⟨hv, htail⟩ := List.forall_mem_cons.1 h
    have ih := sum_le_least_add_greatest B (u :: w :: ws) htail
    have hleast := least_le B (u :: w :: ws) htail
    have hgreatest := greatest_le B (u :: w :: ws) htail
    have hsum : (v :: u :: w :: ws).sum = v + (u :: w :: ws).sum := rfl
    have hmin : least (v :: u :: w :: ws) = min v (least (u :: w :: ws)) := rfl
    have hmax : greatest (v :: u :: w :: ws) = max v (greatest (u :: w :: ws)) := rfl
    have hlen : ((v :: u :: w :: ws).length - 2) * B = ((u :: w :: ws).length - 2) * B + B :=
      Nat.succ_mul ws.length B
    omega

/-- No mean exceeds a bound of its codes, also of fewer codes than it divides by (rule R233). -/
theorem trimmedMean_le (B n : Nat) (vs : List Nat) (hlen : vs.length ≤ n) (h : ∀ v ∈ vs, v ≤ B) :
    trimmedMean n vs ≤ B := by
  have hsum := sum_le_least_add_greatest B vs h
  have hcount : (vs.length - 2) * B ≤ (n - 2) * B := Nat.mul_le_mul_right B (by omega)
  exact Nat.div_le_of_le_mul (by omega)

theorem isRawPair_average (n : Nat) (ps : List (Nat × Nat)) (hlen : ps.length ≤ n) (h : ∀ p ∈ ps, IsRawPair p) :
    IsRawPair (average n ps) :=
  ⟨trimmedMean_le _ _ _ (by simpa using hlen) (List.forall_mem_map.2 fun p hp => (h p hp).1),
    trimmedMean_le _ _ _ (by simpa using hlen) (List.forall_mem_map.2 fun p hp => (h p hp).2)⟩

theorem isRawPair_firstAverage (n : Nat) (rx : List Byte) : IsRawPair (firstAverage n rx) :=
  isRawPair_average n _ (List.length_take_le _ _) fun p hp =>
    isRawPair_of_mem_samples rx p (List.mem_of_mem_take hp)

theorem isRawPair_secondAverage (n : Nat) (rx : List Byte) : IsRawPair (secondAverage n rx) :=
  isRawPair_average n _ (List.length_take_le _ _) fun p hp =>
    isRawPair_of_mem_samples rx p (List.mem_of_mem_drop (List.mem_of_mem_take hp))

theorem isRawPair_readsMean (c : Config) (rx : List Byte) : IsRawPair (readsMean c rx) := by
  obtain ⟨hx1, hy1⟩ := isRawPair_firstAverage c.touchN rx
  obtain ⟨hx2, hy2⟩ := isRawPair_secondAverage c.touchN rx
  constructor <;> simp only [readsMean, meanOf] <;> omega

theorem lowHalf_packHalves (a b : Half) : lowHalf (packHalves a b) = b := by
  exact BitVec.extractLsb'_append_eq_right

theorem highHalf_packHalves (a b : Half) : highHalf (packHalves a b) = a := by
  exact BitVec.extractLsb'_append_eq_left

/-- TRAW holds raw codes when a pair of raw codes is packed into it (rule R32). -/
theorem trawOK_of_packRaw (s : State) (p : Nat × Nat) (h : IsRawPair p) (hs : s.traw = packRaw p) :
    s.trawOK = true := by
  obtain ⟨hx, hy⟩ := h
  simp only [State.trawOK, hs, packRaw, lowHalf_packHalves, highHalf_packHalves, BitVec.toNat_ofNat,
    Bool.and_eq_true, decide_eq_true_eq]
  omega

/-! ### Well-sequenced procedures (rules R77, R81, R141)

A procedure is judged by the sessions before and after it, as a Hoare triple, and judgements compose in sequence. -/

/-- From sessions in `P`, the events of `as` are allowed where they fall and lead to sessions in `Q`: whatever may
follow `Q` may follow `as`. -/
def Sequenced (P : Sessions → Prop) (as : List Act) (Q : Sessions → Prop) : Prop :=
  ∀ bs, (∀ τ, Q τ → slotsAllowed τ (plan τ bs) = true) → ∀ σ, P σ → slotsAllowed σ (plan σ (as ++ bs)) = true

/-- No session is open. -/
def NoneOpen (σ : Sessions) : Prop := σ = Sessions.closed

/-- At most the device's own session is open. -/
def OnlyMaybe (d : Device) (σ : Sessions) : Prop := σ = Sessions.closed ∨ σ = Sessions.closed.withOpen d

/-- The device's session alone is open. -/
def OnlyOpen (d : Device) (σ : Sessions) : Prop := σ = Sessions.closed.withOpen d

theorem NoneOpen.onlyMaybe (d : Device) {σ : Sessions} (h : NoneOpen σ) : OnlyMaybe d σ := .inl h

theorem OnlyOpen.onlyMaybe {d : Device} {σ : Sessions} (h : OnlyOpen d σ) : OnlyMaybe d σ := .inr h

section Sequenced

variable {P P' Q Q' R : Sessions → Prop} {as bs : List Act}

theorem Sequenced.nil : Sequenced P [] P := fun _ hbs => hbs

theorem Sequenced.append (ha : Sequenced P as Q) (hb : Sequenced Q bs R) : Sequenced P (as ++ bs) R := by
  intro cs hcs σ hσ
  rw [List.append_assoc]
  exact ha _ (hb cs hcs) σ hσ

theorem Sequenced.weaken (h : Sequenced P as Q) (hP : ∀ {σ}, P' σ → P σ) (hQ : ∀ {σ}, Q σ → Q' σ) :
    Sequenced P' as Q' := fun cs hcs σ hσ => h cs (fun τ hτ => hcs τ (hQ hτ)) σ (hP hσ)

theorem Sequenced.flatMap {α : Type} {f : α → List Act} (l : List α) (h : ∀ a ∈ l, Sequenced P (f a) P) :
    Sequenced P (l.flatMap f) P := by
  induction l with
  | nil => exact .nil
  | cons a l ih =>
    rw [List.forall_mem_cons] at h
    rw [List.flatMap_cons]
    exact h.1.append (ih h.2)

theorem Sequenced.emit (e : Event) (h : ∀ σ, P σ → eventAllowed σ e = true ∧ Q (σ.after e)) :
    Sequenced P [.emit e] Q := by
  intro cs hcs σ hσ
  obtain ⟨hallowed, hafter⟩ := h σ hσ
  simp [plan, slotsAllowed, hallowed, hcs _ hafter]

/-- A wait may fall anywhere, and a wait of 0 is no event (rule R80). -/
theorem Sequenced.wait (t : Nat) : Sequenced P [.wait t] P := by
  intro cs hcs σ hσ
  simp only [List.singleton_append, plan]
  split
  · exact hcs σ hσ
  · next ht => simpa [slotsAllowed, eventAllowed, Nat.pos_of_ne_zero ht, Sessions.after] using hcs σ hσ

theorem Sequenced.ensure (d : Device) : Sequenced (OnlyMaybe d) [.ensure d] (OnlyOpen d) := by
  intro cs hcs σ hσ
  have hopen := hcs _ rfl
  rcases hσ with rfl | rfl
  · cases d <;> exact hopen
  · cases d <;> exact hopen

theorem Sequenced.finish (d : Device) : Sequenced (OnlyMaybe d) [.finish] NoneOpen := by
  intro cs hcs σ hσ
  have hclosed := hcs _ rfl
  rcases hσ with rfl | rfl
  · exact hclosed
  · cases d <;> exact hclosed

theorem Sequenced.receive : Sequenced (OnlyOpen .touch) [.receive] (OnlyOpen .touch) := by
  rintro cs hcs σ rfl
  exact hcs _ rfl

theorem Sequenced.samplePen : Sequenced NoneOpen [.samplePen] NoneOpen := by
  rintro cs hcs σ rfl
  exact hcs _ rfl

end Sequenced

/-- A procedure that starts and ends with every session closed. -/
def WellSequenced (as : List Act) : Prop := Sequenced NoneOpen as NoneOpen

/-- The events of a well-sequenced procedure are allowed where they fall. -/
theorem WellSequenced.slotsAllowed {as : List Act} (h : WellSequenced as) :
    slotsAllowed Sessions.closed (plan Sessions.closed as) = true := by
  have hend : ∀ τ, NoneOpen τ → Machine.slotsAllowed τ (plan τ []) = true := by
    rintro τ rfl
    rfl
  simpa using h [] hend _ rfl

/-- A procedure for one device that `finish()` ends is well sequenced. -/
theorem Sequenced.wellSequenced {d : Device} {as : List Act} (h : Sequenced (OnlyMaybe d) as (OnlyMaybe d)) :
    WellSequenced (as ++ [.finish]) := (h.append (.finish d)).weaken (NoneOpen.onlyMaybe d) id

/-! ### The procedures of the panel commands (rules R140 to R165) -/

/-- Panel bytes, each after `ensure(PANEL)`, keep to the PANEL session. -/
theorem sequenced_panelBytes (es : List Event) (h : ∀ e ∈ es, isPanelByte e = true) :
    Sequenced (OnlyMaybe .panel) (panelBytes es) (OnlyMaybe .panel) := by
  refine .flatMap es fun e he => ((Sequenced.ensure .panel).append (.emit e ?_)).weaken id OnlyOpen.onlyMaybe
  rintro σ rfl
  cases e with
  | ptx dc b => exact ⟨rfl, rfl⟩
  | _ => cases h _ he

theorem sequenced_pCmd (r : Byte) : Sequenced (OnlyMaybe .panel) (pCmd r) (OnlyMaybe .panel) :=
  sequenced_panelBytes [.ptx .command r] (by simp [isPanelByte])

theorem sequenced_registerWrite (reg : Byte) (data : List Byte) :
    Sequenced (OnlyMaybe .panel) (registerWrite reg data) (OnlyMaybe .panel) := by
  rw [registerWrite_eq]
  exact sequenced_panelBytes _ (isPanelByte_registerEvents reg data)

theorem sequenced_orientWrites (c : Config) (o : Orientation) :
    Sequenced (OnlyMaybe .panel) (orientWrites c o) (OnlyMaybe .panel) :=
  .flatMap _ fun w _ => sequenced_registerWrite w.reg w.data

theorem sequenced_initWrites (c : Config) : Sequenced (OnlyMaybe .panel) (initWrites c) (OnlyMaybe .panel) :=
  .flatMap _ fun e _ => (sequenced_registerWrite e.reg e.data).append (.wait e.postWait)

/-- The reset pulse falls outside every session (rule R147). -/
theorem sequenced_resetPulse (c : Config) : Sequenced NoneOpen (resetPulse c) NoneOpen := by
  have hrst (l : Level) : Sequenced NoneOpen [.emit (.rst l)] NoneOpen :=
    .emit _ fun σ hσ => by cases hσ; exact ⟨rfl, rfl⟩
  exact (hrst .released).append <| (Sequenced.wait c.tRstPre).append <| (hrst .asserted).append <|
    (Sequenced.wait c.tRstHold).append <| (hrst .released).append (.wait c.tRstPost)

theorem wellSequenced_nop (s : State) : WellSequenced (nopActs s) := Sequenced.wellSequenced (d := .panel) .nil

/-- BEGIN: the reset pulse, the panel's registers in one PANEL session, and the backlight after it (rule R149). -/
theorem wellSequenced_begin (o : Orientation) (bl : Byte) (s : State) : WellSequenced (beginActs o bl s) := by
  have hbl : Sequenced NoneOpen [.emit (.bl bl)] NoneOpen :=
    .emit _ fun σ hσ => by cases hσ; exact ⟨rfl, rfl⟩
  have hend : Sequenced (OnlyMaybe .panel) [.finish, .emit (.bl bl)] NoneOpen := (Sequenced.finish .panel).append hbl
  have hstart : Sequenced NoneOpen (resetPulse s.cfg) (OnlyMaybe .panel) :=
    (sequenced_resetPulse s.cfg).weaken id (NoneOpen.onlyMaybe .panel)
  exact ((((((((hstart.append (sequenced_initWrites s.cfg)).append (sequenced_orientWrites s.cfg o)).append
    (.wait s.cfg.tOrientSettle)).append (sequenced_pCmd _)).append (.wait s.cfg.tSlpout)).append
    (sequenced_pCmd _)).append (.wait s.cfg.tDispon)).append hend)

theorem wellSequenced_setOrient (o : Orientation) (s : State) : WellSequenced (setOrientActs o s) :=
  (sequenced_orientWrites s.cfg o).wellSequenced

theorem wellSequenced_setWindow (s : State) : WellSequenced (setWindowActs s) := by
  refine Sequenced.wellSequenced (d := .panel) ?_
  split
  · rw [pWindow_eq]
    exact sequenced_panelBytes _ (isPanelByte_windowEvents _ _ _ _ _)
  · exact .nil

theorem wellSequenced_stream (s : State) : WellSequenced (streamActs s) := by
  refine Sequenced.wellSequenced (d := .panel) ?_
  split
  · rw [pWords_eq]
    exact sequenced_panelBytes _ (isPanelByte_wordsEvents _ _)
  · exact .nil

/-- Every drawing command's procedure is its drawing steps and `finish()` (41_raster.md, opening). -/
theorem wellSequenced_draw (c : Config) (o : Orientation) (ds : List Draw) :
    WellSequenced (drawActs c o ds ++ [.finish]) := by
  rw [drawActs_eq]
  exact (sequenced_panelBytes _ (isPanelByte_drawEvents c o ds)).wellSequenced

/-! ### The procedures of the touch commands (rules R231 to R244) -/

theorem sequenced_axisRead (c : Config) (cmd : Byte) :
    Sequenced (OnlyOpen .touch) (axisRead c cmd) (OnlyOpen .touch) := by
  have httx : Sequenced (OnlyOpen .touch) [.emit (.ttx cmd)] (OnlyOpen .touch) :=
    .emit _ fun σ hσ => by cases hσ; exact ⟨rfl, rfl⟩
  exact httx.append <| (Sequenced.wait c.tTsettle).append <| Sequenced.receive.append .receive

theorem sequenced_rawRead (c : Config) : Sequenced (OnlyMaybe .touch) (rawRead c) (OnlyMaybe .touch) :=
  (((Sequenced.ensure .touch).append (sequenced_axisRead c c.touchCmdX)).append
    (sequenced_axisRead c c.touchCmdY)).weaken id OnlyOpen.onlyMaybe

theorem sequenced_avgActs (c : Config) (n : Nat) :
    Sequenced (OnlyMaybe .touch) (avgActs c n) (OnlyMaybe .touch) := by
  induction n using avgActs.induct with
  | case1 => exact .nil
  | case2 => exact sequenced_rawRead c
  | case3 n ih => exact ((sequenced_rawRead c).append (.wait c.tInter)).append ih

theorem sequenced_twiceActs (c : Config) : Sequenced (OnlyMaybe .touch) (twiceActs c) (OnlyMaybe .touch) :=
  (sequenced_avgActs c c.touchN).append (sequenced_avgActs c c.touchN)

theorem wellSequenced_touchRaw (s : State) : WellSequenced (touchRawActs s) := (sequenced_rawRead s.cfg).wellSequenced

theorem wellSequenced_touchAvg (s : State) : WellSequenced (touchAvgActs s) :=
  (sequenced_avgActs s.cfg s.cfg.touchN).wellSequenced

theorem wellSequenced_touchTwice (s : State) : WellSequenced (touchTwiceActs s) :=
  (sequenced_twiceActs s.cfg).wellSequenced

/-- The pen is sampled before any session opens (rule R243). -/
theorem wellSequenced_touchScan (s : State) : WellSequenced (touchScanActs s) := by
  have htwice := (sequenced_twiceActs s.cfg).wellSequenced
  have hpen : Sequenced NoneOpen (if s.cfg.penDetect then [.samplePen] else []) NoneOpen := by
    split
    · exact .samplePen
    · exact .nil
  simpa [touchScanActs, WellSequenced] using hpen.append htwice

/-! ### What keeps the invariant -/

/-- An idle engine agrees with SESS exactly when no session is open. -/
theorem engineOK_idle_iff (s : State) (h : s.engine = .idle) : s.engineOK = true ↔ s.sess = Sessions.closed := by
  rcases hσ : s.sess with ⟨p, t⟩
  simp [State.engineOK, h, hσ, Sessions.closed]

theorem engineOK_run_iff (s : State) (r : Running) (h : s.engine = .run r) :
    s.engineOK = true ↔
      slotsAllowed s.sess r.todo = true ∧ (needsReady r.cmd = true → s.status.ready = true) := by
  cases hn : needsReady r.cmd <;> simp [State.engineOK, h, hn]

section Keeps

variable {s t : State}

theorem State.Inv.sess_closed_of_idle (hs : s.Inv) (h : s.engine = .idle) : s.sess = Sessions.closed := by
  obtain ⟨_, _, heng, _, _⟩ := hs
  exact (engineOK_idle_iff s h).1 heng

theorem State.Inv.run (hs : s.Inv) {r : Running} (h : s.engine = .run r) :
    slotsAllowed s.sess r.todo = true ∧ (needsReady r.cmd = true → s.status.ready = true) := by
  obtain ⟨_, _, heng, _, _⟩ := hs
  exact (engineOK_run_iff s r h).1 heng

/-! #### Updates of fields the invariant does not speak of -/

theorem State.Inv.setInputs (hs : s.Inv) (is : List Input) : ({ s with inputs := is } : State).Inv := hs

theorem State.Inv.deliver (hs : s.Inv) (off : Nat) (v : Word) : (s.deliver off v).Inv := hs

theorem State.Inv.overrun (hs : s.Inv) : s.overrun.Inv := hs

theorem State.Inv.rejectIll (hs : s.Inv) : s.rejectIll.Inv := hs

theorem State.Inv.rejectEarg (hs : s.Inv) : s.rejectEarg.Inv := hs

theorem State.Inv.rejectNrdy (hs : s.Inv) : s.rejectNrdy.Inv := hs

theorem State.Inv.latch (hs : s.Inv) (i : Instr) : (s.latch i).Inv := hs

theorem State.Inv.commitPressed (hs : s.Inv) (pressed : Bool) : (s.commitPressed pressed).Inv := hs

theorem State.Inv.commitXform (hs : s.Inv) (res : XformResult) : (s.commitXform res).Inv := by
  cases res with
  | ok sx sy => exact hs
  | unsupported => exact hs
  | unrepresentable => exact hs

/-! #### Commit helpers -/

/-- A window opens only where READY is 1. -/
theorem State.Inv.commitWindow (hs : s.Inv) (hready : s.status.ready = true) (r : Running) :
    (s.commitWindow r).Inv := by
  obtain ⟨hcfg, himg, heng, htraw, _⟩ := hs
  exact ⟨hcfg, himg, heng, htraw, by simp [State.readyOK, hready]⟩

/-- The panel becomes dirty only where READY is 1. -/
theorem State.Inv.commitOrient (hs : s.Inv) (hready : s.status.ready = true) (o : Orientation) :
    (s.commitOrient o).Inv := by
  obtain ⟨hcfg, _, heng, htraw, _⟩ := hs
  exact ⟨hcfg, rfl, heng, htraw, by simp [State.readyOK, hready]⟩

theorem State.Inv.setReady (hs : s.Inv) : ({ s with status := { s.status with ready := true } } : State).Inv := by
  obtain ⟨hcfg, himg, heng, htraw, _⟩ := hs
  refine ⟨hcfg, himg, ?_, htraw, rfl⟩
  cases h : s.engine with
  | idle => simpa [State.engineOK, h] using heng
  | run r =>
    obtain ⟨hslots, _⟩ := (engineOK_run_iff s r h).1 heng
    simpa [State.engineOK, h] using hslots

theorem State.Inv.clearDirty (hs : s.Inv) : ({ s with status := { s.status with dirty := false } } : State).Inv := by
  obtain ⟨hcfg, himg, heng, htraw, hready⟩ := hs
  refine ⟨hcfg, himg, heng, htraw, ?_⟩
  cases h : s.status.ready <;> simp_all [State.readyOK]

theorem State.Inv.commitTouch (hs : s.Inv) (valid : Bool) : (s.commitTouch valid).Inv := by
  obtain ⟨hcfg, himg, heng, htraw, hready⟩ := hs
  refine ⟨hcfg, himg, heng, htraw, ?_⟩
  cases h : s.status.ready <;> simp_all [State.readyOK]

theorem State.Inv.setTraw (hs : s.Inv) {p : Nat × Nat} (hp : IsRawPair p) :
    ({ s with traw := packRaw p } : State).Inv := by
  obtain ⟨hcfg, himg, heng, _, hready⟩ := hs
  exact ⟨hcfg, himg, heng, trawOK_of_packRaw _ p hp rfl, hready⟩

theorem State.Inv.commitPress (hs : s.Inv) {mean : Nat × Nat} (hmean : IsRawPair mean) :
    (s.commitPress mean).Inv := (hs.setTraw hmean).commitXform _

/-! #### The engine -/

/-- The results of every command keep the invariant; those that can open a window or make the panel dirty need
READY = 1, which the running command was accepted with (rule R52). -/
theorem State.Inv.commitResults (hs : s.Inv) (r : Running) (hr : needsReady r.cmd = true → s.status.ready = true) :
    (commitResults r s).Inv := by
  obtain ⟨cmd, todo, rx, pen, ramwr⟩ := r
  cases cmd with
  | nop => exact hs
  | beginPanel o bl => exact hs.setReady.commitOrient rfl o
  | setOrient o => exact hs.commitOrient (hr rfl) o
  | stream =>
    simp only [Machine.commitResults, commitStream]
    split
    · exact hs
    · exact hs
  | clear => exact (hs.commitWindow (hr rfl) _).clearDirty
  | setWindow => exact hs.commitWindow (hr rfl) _
  | setPixel => exact hs.commitWindow (hr rfl) _
  | fillArea => exact hs.commitWindow (hr rfl) _
  | drawPoint sz ds => exact hs.commitWindow (hr rfl) _
  | drawLine sz ls ds => exact hs.commitWindow (hr rfl) _
  | drawRect sz ls fl ds => exact hs.commitWindow (hr rfl) _
  | drawCircle sz fl ds => exact hs.commitWindow (hr rfl) _
  | touchRaw => exact (hs.commitTouch false).setTraw (isRawPair_rawSample rx)
  | touchAvg => exact (hs.commitTouch false).setTraw (isRawPair_firstAverage s.cfg.touchN rx)
  | touchTwice =>
    simp only [Machine.commitResults, commitTouchTwice]
    split
    · exact (hs.commitTouch _).setTraw (isRawPair_readsMean s.cfg rx)
    · exact hs.commitTouch _
  | touchScan =>
    simp only [Machine.commitResults, commitTouchScan]
    split
    · exact ((hs.commitPress (isRawPair_readsMean s.cfg rx)).commitPressed _).commitTouch _
    · exact (hs.commitPressed _).commitTouch _
  | map => exact hs.commitXform _

theorem State.Inv.complete (hs : s.Inv) (hsess : s.sess = Sessions.closed) : s.complete.Inv := by
  obtain ⟨hcfg, himg, _, htraw, hready⟩ := hs
  exact ⟨hcfg, himg, (engineOK_idle_iff _ rfl).2 hsess, htraw, hready⟩

/-- A commit comes when no event is left, so every session is closed. -/
theorem State.Inv.commit (hs : s.Inv) {r : Running} (hrun : s.engine = .run r) (htodo : r.todo = []) :
    (commit r s).Inv := by
  obtain ⟨hslots, hready⟩ := hs.run hrun
  have hclosed : s.sess = Sessions.closed := by
    rcases hσ : s.sess with ⟨p, t⟩
    simpa [htodo, hσ, slotsAllowed, Sessions.closed] using hslots
  obtain ⟨_, hsess, _⟩ := commit_frame r s
  exact (hs.commitResults r hready).complete (hsess.trans hclosed)

/-- One slot changes the panel by the event it makes. -/
theorem performSlot_panel (s : State) (r : Running) (rest : List Slot) (slot : Slot) :
    ∃ e, (s.performSlot r rest slot).panel =
      s.panel.after s.cfg (width s.cfg s.orient) (height s.cfg s.orient) e := by
  cases slot with
  | emit e => exact ⟨e, rfl⟩
  | receive => exact ⟨.trx s.nextTouchByte, rfl⟩
  | samplePen => exact ⟨.pen s.nextPen, rfl⟩

/-- The events left after a slot are allowed, also the `finish()` a pen level UP leaves (rule R244). -/
theorem performSlot_slotsAllowed (s : State) (r : Running) (rest : List Slot) (slot : Slot)
    (h : slotsAllowed s.sess (slot :: rest) = true) :
    ∃ r', (s.performSlot r rest slot).engine = .run r' ∧ r'.cmd = r.cmd ∧
      slotsAllowed (s.performSlot r rest slot).sess r'.todo = true := by
  cases slot with
  | emit e =>
    simp only [slotsAllowed, Bool.and_eq_true] at h
    exact ⟨_, rfl, by simp [noteRamwr_eq], by simpa [State.performSlot, noteRamwr_eq] using h.2⟩
  | receive =>
    simp only [slotsAllowed, Bool.and_eq_true] at h
    exact ⟨_, rfl, rfl, h.2⟩
  | samplePen =>
    simp only [slotsAllowed, Bool.and_eq_true, Bool.not_eq_true'] at h
    obtain ⟨⟨hpanel, htouch⟩, hrest⟩ := h
    refine ⟨_, rfl, rfl, ?_⟩
    cases s.nextPen with
    | down => exact hrest
    | up => simp [State.performSlot, Sessions.after, closeSlots, slotsAllowed, hpanel, htouch]

theorem State.Inv.performSlot (hs : s.Inv) {r : Running} {slot : Slot} {rest : List Slot}
    (hrun : s.engine = .run r) (htodo : r.todo = slot :: rest) : (s.performSlot r rest slot).Inv := by
  obtain ⟨hslots, hneeds⟩ := hs.run hrun
  obtain ⟨hcfg, himg, _, htraw, hready⟩ := hs
  obtain ⟨hstatus, _, _, htraw', _, _, _, _, _, _, _, _, _, hcfg', _⟩ := performSlot_frame s r rest slot
  obtain ⟨e, hpanel⟩ := performSlot_panel s r rest slot
  obtain ⟨r', hrun', hcmd, hslots'⟩ := performSlot_slotsAllowed s r rest slot (htodo ▸ hslots)
  refine ⟨hcfg' ▸ hcfg, ?_, ?_, ?_, ?_⟩
  · rw [hpanel]
    exact Panel.wf_after _ _ _ e _ himg
  · exact (engineOK_run_iff _ r' hrun').2 ⟨hslots', by rwa [hcmd, hstatus]⟩
  · rwa [State.trawOK, htraw']
  · rwa [State.readyOK, hstatus]

theorem State.Inv.engineStep (hs : s.Inv) : (engineStep s).Inv := by
  rcases engineStep_cases s with ⟨_, h⟩ | ⟨r, hrun, htodo, h⟩ | ⟨r, slot, rest, hrun, htodo, h⟩
  · rwa [h]
  · rw [h]
    exact hs.commit hrun htodo
  · rw [h]
    exact hs.performSlot hrun htodo

/-! #### Acceptance -/

/-- A command starts from an idle machine, with the events of a well-sequenced procedure. -/
theorem State.Inv.start (hs : s.Inv) (hidle : s.engine = .idle) (i : Instr)
    (hready : needsReady i = true → s.status.ready = true) {acts : List Act} (hacts : WellSequenced acts) :
    (s.start i acts).Inv := by
  have hclosed := hs.sess_closed_of_idle hidle
  obtain ⟨hcfg, himg, _, htraw, hreadyOK⟩ := hs
  refine ⟨hcfg, himg, (engineOK_run_iff _ _ rfl).2 ⟨?_, hready⟩, htraw, hreadyOK⟩
  simpa [hclosed] using hacts.slotsAllowed

/-- Every command is an acceptance that checks READY as NEEDS_READY says (rule R52), of a well-sequenced
procedure. -/
theorem exec_eq_accept (i : Instr) : ∃ legal procedure,
    exec i = accept i legal (needsReady i) procedure ∧ ∀ s, WellSequenced (procedure s) := by
  cases i with
  | nop => exact ⟨_, _, rfl, wellSequenced_nop⟩
  | beginPanel o bl => exact ⟨_, _, rfl, wellSequenced_begin o bl⟩
  | setOrient o => exact ⟨_, _, rfl, wellSequenced_setOrient o⟩
  | setWindow => exact ⟨_, _, rfl, wellSequenced_setWindow⟩
  | stream => exact ⟨_, _, rfl, wellSequenced_stream⟩
  | setPixel => exact ⟨_, _, rfl, fun _ => wellSequenced_draw _ _ _⟩
  | fillArea => exact ⟨_, _, rfl, fun _ => wellSequenced_draw _ _ _⟩
  | clear => exact ⟨_, _, rfl, fun _ => wellSequenced_draw _ _ _⟩
  | drawPoint sz ds => exact ⟨_, _, rfl, fun _ => wellSequenced_draw _ _ _⟩
  | drawLine sz ls ds => exact ⟨_, _, rfl, fun _ => wellSequenced_draw _ _ _⟩
  | drawRect sz ls fl ds => exact ⟨_, _, rfl, fun _ => wellSequenced_draw _ _ _⟩
  | drawCircle sz fl ds => exact ⟨_, _, rfl, fun _ => wellSequenced_draw _ _ _⟩
  | touchRaw => exact ⟨_, _, rfl, wellSequenced_touchRaw⟩
  | touchAvg => exact ⟨_, _, rfl, wellSequenced_touchAvg⟩
  | touchTwice => exact ⟨_, _, rfl, wellSequenced_touchTwice⟩
  | touchScan => exact ⟨_, _, rfl, wellSequenced_touchScan⟩
  | map => exact ⟨_, _, rfl, wellSequenced_nop⟩

theorem State.Inv.exec (hs : s.Inv) {i : Instr} (h : exec i s = .next t) : t.Inv := by
  obtain ⟨legal, procedure, hexec, hseq⟩ := exec_eq_accept i
  rw [hexec] at h
  rcases accept_cases i legal (needsReady i) procedure s with
    ⟨_, ha⟩ | ⟨_, _, ha⟩ | ⟨_, _, _, _, ha⟩ | ⟨hidle, _, hready, ha⟩ <;> cases ha.symm.trans h
  · exact hs.overrun
  · exact hs.rejectEarg
  · exact hs.rejectNrdy
  · exact (hs.latch i).start ((State.not_busy_iff s).1 hidle) i hready (hseq _)

/-! #### Host accesses and block reset -/

theorem State.Inv.writeCmd (hs : s.Inv) {v : Word} (h : s.writeCmd v = .next t) : t.Inv := by
  rcases writeCmd_cases v s with ⟨_, hw⟩ | ⟨_, _, hw⟩ | ⟨i, _, _, hw⟩
  · cases hw.symm.trans h
    exact hs.overrun
  · cases hw.symm.trans h
    exact hs.rejectIll
  · exact hs.exec (hw.symm.trans h)

/-- A calibration write is dropped with an overrun, or done (rule R50). -/
theorem State.Inv.writeCal (hs : s.Inv) {write : State → State} (hw : (write s).Inv) : (s.writeCal write).Inv := by
  unfold State.writeCal
  split
  · exact hs.overrun
  · exact hw

theorem State.Inv.writeReg (hs : s.Inv) {v : Word} {r : HostReg} (h : s.writeReg v r = .next t) : t.Inv := by
  cases r with
  | cmd => exact hs.writeCmd h
  | calSel | calXfac | calYfac | calXoff | calYoff | calValid =>
    cases h
    exact hs.writeCal hs
  | _ =>
    cases h
    exact hs

theorem State.Inv.access (hs : s.Inv) {a : Access} (h : s.access a = .next t) : t.Inv := by
  rcases access_cases s t a h with ⟨off, w, r, _, _, rfl⟩ | ⟨_, _, _, _, _, _, hw⟩
  · exact hs.deliver _ _
  · exact hs.writeReg hw

theorem State.Inv.pollTurn (hs : s.Inv) : s.pollTurn.Inv := by
  have hread := hs.deliver statusOffset (s.readReg .status)
  rcases pollTurn_cases s with ⟨_, h⟩ | ⟨_, h⟩
  · rwa [h]
  · rw [h]
    exact (hread.setInputs _).engineStep

/-- Block reset gives the invariant back from any state whose parameters meet their constraints. -/
theorem blockReset_inv (s : State) (hcfg : s.cfg.wf = true) : s.blockReset.Inv :=
  ⟨hcfg, Panel.wf_afterReset _ _, rfl, (by decide : State.reset.trawOK = true), rfl⟩

theorem State.Inv.reset (hs : s.Inv) {a : Option Access} (h : s.blockReset.accessInReset a = .next t) : t.Inv := by
  obtain ⟨hcfg, _⟩ := hs
  have hreset := blockReset_inv s hcfg
  rcases accessInReset_cases _ t a h with rfl | ⟨off, v, rfl⟩
  · exact hreset
  · exact hreset.deliver off v

theorem State.Inv.step (hs : s.Inv) (h : step s = .next t) : t.Inv := by
  rcases step_cases s t h with ⟨_, rfl⟩ | ⟨a, tick, rest, u, _, hu, rfl⟩ | ⟨rest, _, rfl⟩ | ⟨rest, _, rfl⟩ |
    ⟨a, rest, _, hr⟩
  · exact hs.engineStep
  · have hacc : u.Inv := (hs.setInputs rest).access hu
    split
    · exact hacc.engineStep
    · exact hacc
  · exact (hs.setInputs rest).pollTurn
  · exact (hs.setInputs rest).engineStep
  · exact (hs.setInputs rest).reset hr

end Keeps

/-- Settles O38: every operation a step is made of keeps the invariant. -/
theorem everyStepKeepsTheInvariant : Obligations.EveryStepKeepsTheInvariant := fun _ _ hs h => hs.step h

end Sys2Proof.Machine

/-! The host's registers: what a read returns and a write stores, in which order a command word is checked, what block
reset leaves in the register window, and who else may change a register. -/

namespace Sys2Proof.Machine

/-! ### STATUS bit by bit (rules R23, R24) -/

/-- The bits of STATUS from bit 0 on; the reserved bits above bit 16 are left out. -/
def Status.bits (busy : Bool) (st : Status) : List Bool :=
  [busy, st.ready, st.dirty, st.winopen, st.tvalid, st.pressed, false, false, st.done, st.ovr, st.ill, st.earg,
    st.nrdy, st.eseq, st.unsup, st.maperr, st.justp]

theorem readReg_status_bit (s : State) (k : Nat) :
    (s.readReg .status).getLsbD k = (s.status.bits s.busy).getD k false := by
  have hword : s.readReg .status = (BitVec.ofBoolListLE (s.status.bits s.busy)).setWidth 32 := rfl
  rw [hword, BitVec.getLsbD_setWidth, BitVec.getLsbD_ofBoolListLE]
  by_cases hk : k < 32
  · simp [hk]
  · have hlen : (s.status.bits s.busy).length ≤ k := Nat.le_trans (by decide : 17 ≤ 32) (Nat.le_of_not_lt hk)
    rw [List.getD_eq_default _ _ hlen, Bool.and_false]

/-- A STATUS write clears a bit exactly when it is one of the W1C bits 8 to 16 and is written as 1 (rule R24). -/
theorem Status.bits_clearW1C (v : Word) (st : Status) (busy : Bool) (k : Nat) :
    ((st.clearW1C v).bits busy).getD k false =
      ((st.bits busy).getD k false && !(decide (8 ≤ k) && decide (k ≤ 16) && v.getLsbD k)) := by
  by_cases hk : k < 17
  · interval_cases k <;> simp [Status.bits, Status.clearW1C]
  · have hlen : 17 ≤ k := Nat.le_of_not_lt hk
    rw [List.getD_eq_default _ _ (by exact hlen), List.getD_eq_default _ _ (by exact hlen), Bool.false_and]

/-- A bit of STATUS from bit 8 on, which BUSY does not touch. -/
def Status.sticky (st : Status) (k : Nat) : Bool := (st.bits false).getD k false

theorem readReg_status_sticky (s : State) {k : Nat} (hk : 8 ≤ k) :
    (s.readReg .status).getLsbD k = s.status.sticky k := by
  obtain ⟨j, rfl⟩ := Nat.exists_eq_add_of_le' hk
  rw [readReg_status_bit]
  rfl

/-- Setting a bit of STATUS clears no other bit. -/
theorem getD_set_true {l : List Bool} {k : Nat} (i : Nat) (h : l.getD k false = true) :
    (l.set i true).getD k false = true := by
  rw [List.getD_eq_getElem?_getD] at h ⊢
  rw [List.getElem?_set]
  split
  · next hik =>
    split
    · rfl
    · next hlen => simp [← hik, hlen] at h
  · exact h

/-! ### The register map (rules R21, R70) -/

theorem registerAt_eq_some {off w : Nat} {r : HostReg} (h : registerAt off w = some r) :
    w = 4 ∧ ∃ k, k < 32 ∧ off = 4 * k ∧ r = registerMap.getD k .reserved := by
  obtain ⟨hw, halign, hrange⟩ := (registerAt_isSome off w).1 (by simp [h])
  obtain ⟨k, rfl⟩ := Nat.dvd_of_mod_eq_zero halign
  have hk : k < 32 := by omega
  subst hw
  rw [registerAt_word k hk, Option.some.injEq] at h
  exact ⟨rfl, k, hk, rfl, h.symm⟩

theorem registerAt_reserved {off : Nat} (halign : off % 4 = 0) (hlow : 0x48 ≤ off) (hhigh : off < 0x80) :
    registerAt off 4 = some .reserved := by
  obtain ⟨k, rfl⟩ := Nat.dvd_of_mod_eq_zero halign
  have hlen : registerMap.length ≤ k := show 18 ≤ k by omega
  rw [registerAt_word k (by omega), List.getD_eq_default _ _ hlen]

/-- The calibration registers (rules R34 to R36). -/
def HostReg.isCal (r : HostReg) : Bool :=
  r ∈ ([.calSel, .calXfac, .calYfac, .calXoff, .calYoff, .calValid] : List HostReg)

/-- The calibration registers stand at the offsets 0x30 to 0x44. -/
theorem registerAt_isCal {off w : Nat} {r : HostReg} (h : registerAt off w = some r) (hr : r.isCal = true) :
    0x30 ≤ off ∧ off ≤ 0x44 := by
  obtain ⟨_, k, hk, rfl, rfl⟩ := registerAt_eq_some h
  have hmap : ∀ k < 32, (registerMap.getD k .reserved).isCal = true → 12 ≤ k ∧ k ≤ 17 := by decide
  have hrange := hmap k hk hr
  omega

theorem registerAt_status {off w : Nat} (h : registerAt off w = some .status) : off = 0x04 := by
  obtain ⟨_, k, hk, rfl, hr⟩ := registerAt_eq_some h
  have hmap : ∀ k < 32, .status = registerMap.getD k .reserved → k = 1 := by decide
  rw [hmap k hk hr]

theorem registerAt_id_iff {off w : Nat} {r : HostReg} (h : registerAt off w = some r) : r = .id ↔ off = 0x00 := by
  obtain ⟨_, k, hk, rfl, rfl⟩ := registerAt_eq_some h
  have hmap : ∀ k < 32, registerMap.getD k .reserved = .id ↔ k = 0 := by decide
  rw [hmap k hk]
  omega

theorem registerAt_geom_iff {off w : Nat} {r : HostReg} (h : registerAt off w = some r) : r = .geom ↔ off = 0x1C := by
  obtain ⟨_, k, hk, rfl, rfl⟩ := registerAt_eq_some h
  have hmap : ∀ k < 32, registerMap.getD k .reserved = .geom ↔ k = 7 := by decide
  rw [hmap k hk]
  omega

/-! ### Reads and writes of the window (rules R51, R73) -/

theorem access_read_eq (s : State) {off w : Nat} {r : HostReg} (h : registerAt off w = some r) :
    s.access (.read off w) = .next (s.deliver off (s.readReg r)) := by
  simp only [State.access, h]

theorem access_write_eq (s : State) (v : Word) {off w : Nat} {r : HostReg} (h : registerAt off w = some r) :
    s.access (.write off w v) = s.writeReg v r := by
  simp only [State.access, h]

/-- The value at word `k` of the window, the reserved words included. -/
theorem readReg_registerMap (s : State) (k : Nat) :
    s.readReg (registerMap.getD k .reserved) = (registerMap.map s.readReg).getD k 0 :=
  (List.getD_map registerMap .reserved s.readReg).symm

/-- Settles O31: the window is the register map read entry by entry, and STATUS is its list of bits. -/
theorem readsHaveNoSideEffect : Obligations.ReadsHaveNoSideEffect := by
  intro s bank geom st
  refine ⟨fun k hk => ?_, readReg_status_bit s⟩
  rw [access_read_eq s (registerAt_word k hk), readReg_registerMap]
  rfl

/-- ARG0 to ARG3 can be written at any time (rule R47). -/
theorem access_write_arg (s : State) (v : Word) :
    s.access (.write 0x0C 4 v) = .next { s with arg := { s.arg with a0 := v } } ∧
    s.access (.write 0x10 4 v) = .next { s with arg := { s.arg with a1 := v } } ∧
    s.access (.write 0x14 4 v) = .next { s with arg := { s.arg with a2 := v } } ∧
    s.access (.write 0x18 4 v) = .next { s with arg := { s.arg with a3 := v } } :=
  ⟨access_write_eq s v (r := .arg0) rfl, access_write_eq s v (r := .arg1) rfl,
    access_write_eq s v (r := .arg2) rfl, access_write_eq s v (r := .arg3) rfl⟩

theorem writeCal_idle (write : State → State) {s : State} (h : s.busy = false) : s.writeCal write = write s := by
  simp [State.writeCal, h]

theorem writeCal_busy (write : State → State) {s : State} (h : s.busy = true) : s.writeCal write = s.overrun := by
  simp [State.writeCal, h]

/-- A field write reaches the bank CAL_SEL selects and no other (rule R35). -/
theorem entry_updateBank (f : CalBank → CalBank) (s : State) (o : BitVec 3) :
    entry (s.updateBank f).cal o = if o = s.calSel then f (entry s.cal o) else entry s.cal o := by
  rw [State.updateBank_cal]
  split
  · next h => rw [h, entry_setEntry_same]
  · next h => exact entry_setEntry_other _ _ _ _ h

/-- What a write to a field of the selected calibration bank stores while BUSY is 0. -/
theorem access_write_bank {s : State} (h : s.busy = false) (v : Word) (f : CalBank → CalBank) {off : Nat} {r : HostReg}
    (hr : registerAt off 4 = some r) (hw : s.writeReg v r = .next (s.writeCal fun t => t.updateBank f)) :
    ∃ cal', s.access (.write off 4 v) = .next { s with cal := cal' } ∧
      ∀ o : BitVec 3, entry cal' o = if o = s.calSel then f (entry s.cal o) else entry s.cal o := by
  refine ⟨_, ?_, entry_updateBank f s⟩
  rw [access_write_eq s v hr, hw, writeCal_idle _ h]
  rfl

/-- Settles O32: each offset of the statement names one register of the map, whose write is one update. -/
theorem writesReachTheirRegister : Obligations.WritesReachTheirRegister := by
  intro s v
  obtain ⟨harg0, harg1, harg2, harg3⟩ := access_write_arg s v
  refine ⟨harg0, harg1, harg2, harg3, ?readOnly, ?reserved, fun hidle => ⟨?calSel, ?calValid, ?banks⟩⟩
  case readOnly =>
    simp only [List.forall_mem_cons, List.not_mem_nil, false_implies, implies_true, and_true]
    exact ⟨access_write_eq s v (r := .id) rfl, access_write_eq s v (r := .geom) rfl,
      access_write_eq s v (r := .orient) rfl, access_write_eq s v (r := .traw) rfl,
      access_write_eq s v (r := .tsx) rfl, access_write_eq s v (r := .tsy) rfl⟩
  case reserved =>
    intro off halign hlow hhigh
    exact access_write_eq s v (registerAt_reserved halign hlow hhigh)
  case calSel => rw [access_write_eq s v (r := .calSel) rfl, State.writeReg, writeCal_idle _ hidle]
  case calValid => rw [access_write_eq s v (r := .calValid) rfl, State.writeReg, writeCal_idle _ hidle]
  case banks =>
    simp only [List.forall_mem_cons, List.not_mem_nil, false_implies, implies_true, and_true]
    exact ⟨access_write_bank hidle v _ (r := .calXfac) rfl rfl, access_write_bank hidle v _ (r := .calYfac) rfl rfl,
      access_write_bank hidle v _ (r := .calXoff) rfl rfl, access_write_bank hidle v _ (r := .calYoff) rfl rfl⟩

/-- Any write to a calibration register while BUSY is 1 is an overrun (rule R50). -/
theorem writeReg_cal_busy {s : State} (h : s.busy = true) (v : Word) {r : HostReg} (hr : r.isCal = true) :
    s.writeReg v r = .next s.overrun := by
  cases r with
  | calSel | calXfac | calYfac | calXoff | calYoff | calValid => exact congrArg _ (writeCal_busy _ h)
  | _ => cases hr

/-- Settles O34: the six offsets are those of the calibration registers, each write to which is an overrun. -/
theorem overrunDropsCalibrationWrites : Obligations.OverrunDropsCalibrationWrites := by
  intro s v hbusy
  have hcal {off : Nat} {r : HostReg} (hat : registerAt off 4 = some r) (hr : r.isCal = true) :
      s.access (.write off 4 v) = .next s.overrun := by rw [access_write_eq s v hat, writeReg_cal_busy hbusy v hr]
  refine ⟨?_, access_write_arg s v⟩
  simp only [List.forall_mem_cons, List.not_mem_nil, false_implies, implies_true, and_true]
  exact ⟨hcal (r := .calSel) rfl rfl, hcal (r := .calXfac) rfl rfl, hcal (r := .calYfac) rfl rfl,
    hcal (r := .calXoff) rfl rfl, hcal (r := .calYoff) rfl rfl, hcal (r := .calValid) rfl rfl⟩

/-! ### The command register (rules R38, R52, R110) -/

theorem writeCmd_busy {s : State} (h : s.busy = true) (v : Word) : s.writeCmd v = .next s.overrun := by
  simp [State.writeCmd, h]

theorem writeCmd_instr {s : State} (h : s.busy = false) {v : Word} {i : Instr} (hd : decode v = .instr i) :
    s.writeCmd v = exec i s := by
  simp [State.writeCmd, h, hd]

/-- Every command's acceptance is an overrun while BUSY is 1 (rule R38). -/
theorem exec_busy {s : State} (h : s.busy = true) (i : Instr) : exec i s = .next s.overrun := by
  rcases exec_cases i s with ⟨_, he⟩ | ⟨hidle, _⟩ | ⟨hidle, _⟩ | ⟨hidle, _⟩
  · exact he
  all_goals exact absurd (h.symm.trans hidle) (by decide)

/-- Settles O7: both the CMD write and the acceptance look at BUSY first. -/
theorem commandWhileBusyOnlySetsOvr : Obligations.CommandWhileBusyOnlySetsOvr := by
  refine ⟨fun s v hbusy => ?_, fun s i hbusy => exec_busy hbusy i⟩
  rw [access_write_eq s v (r := .cmd) rfl]
  exact writeCmd_busy hbusy v

/-- An access is taken on the state without that input; the engine steps after it only where it was running. -/
theorem step_access {s : State} {a : Access} {tick : Bool} {rest : List Input}
    (h : s.inputs = .access a tick :: rest) :
    step s = thenEngine (tick && s.busy) (State.access { s with inputs := rest } a) := by
  simp only [step, State.cycle, h]
  rfl

/-- Settles O5: an idle engine takes no step in the cycle of the acceptance, whatever `tick` is. -/
theorem stepRunsTheDecodedCommand : Obligations.StepRunsTheDecodedCommand := by
  intro s v i tick rest hinputs hidle hdecode
  have hidle' : State.busy { s with inputs := rest } = false := hidle
  rw [step_access hinputs, hidle, Bool.and_false, access_write_eq _ v (r := .cmd) rfl, State.writeReg,
    writeCmd_instr hidle' hdecode]
  obtain ⟨t, ht⟩ := exec_next i { s with inputs := rest }
  rw [ht]
  rfl

/-- The command of a table word is the one its 32 bits decode to. -/
theorem decode_of_decodeTableWord {nbits w : Nat} {i : Instr} (h : decodeTableWord nbits w = some i) :
    decode (BitVec.ofNat 32 (w % 2 ^ nbits)) = .instr i := by
  unfold decodeTableWord tableWord at h
  split at h
  · cases h
  · next v hv =>
    obtain ⟨_, rfl⟩ : w % 2 ^ nbits < 2 ^ 32 ∧ BitVec.ofNat 32 (w % 2 ^ nbits) = v := by simpa using hv
    split at h
    · next hd => rw [hd, Option.some.inj h]
    · cases h

/-- Settles O6: withFetchWord places the CMD write of that word, and the step takes it away again. -/
theorem fetchWordRunsTheTableWord : Obligations.FetchWordRunsTheTableWord := fun s nbits w i _ hidle hdecode =>
  stepRunsTheDecodedCommand (s.withFetchWord nbits w) _ i false s.inputs rfl hidle (decode_of_decodeTableWord hdecode)

/-- The field check of acceptance: a dot size outside 1..8 is the one illegal field value (rules R38, R115). -/
def fieldsLegal : Instr → Bool
  | .drawPoint sz _ => sizeLegal sz
  | .drawLine sz _ _ => sizeLegal sz
  | .drawRect sz _ _ _ => sizeLegal sz
  | .drawCircle sz _ _ => sizeLegal sz
  | _ => true

/-- Which checks each command's acceptance makes. -/
theorem exec_eq_accept_fieldsLegal (i : Instr) :
    ∃ procedure, exec i = accept i (fieldsLegal i) (needsReady i) procedure := by
  cases i <;> exact ⟨_, rfl⟩

theorem sizeLegal_iff (sz : Nat) : sizeLegal sz = true ↔ 1 ≤ sz ∧ sz ≤ 8 := by simp [sizeLegal]

theorem exec_illegal {s : State} {i : Instr} (hidle : s.busy = false) (h : fieldsLegal i = false) :
    exec i s = .next s.rejectEarg := by
  obtain ⟨procedure, he⟩ := exec_eq_accept_fieldsLegal i
  simp [he, accept, hidle, h]

theorem exec_notReady {s : State} {i : Instr} (hidle : s.busy = false) (hlegal : fieldsLegal i = true)
    (hneeds : needsReady i = true) (h : s.status.ready = false) : exec i s = .next s.rejectNrdy := by
  obtain ⟨procedure, he⟩ := exec_eq_accept_fieldsLegal i
  simp [he, accept, hidle, hlegal, hneeds, h]

/-- Settles O8: the field check comes before the READY check, and only the four sized commands can fail it. -/
theorem rejectionsOfTheFieldAndReadyChecks : Obligations.RejectionsOfTheFieldAndReadyChecks := by
  refine ⟨fun s sz ls fl ds hidle hsz => ?_, fun s i hidle hready hneeds hpoint hline hrect hcircle => ?_⟩
  · have hillegal : sizeLegal sz = false := by
      rw [← Bool.not_eq_true, sizeLegal_iff]
      omega
    simp only [List.forall_mem_cons, List.not_mem_nil, false_implies, implies_true, and_true]
    exact ⟨exec_illegal hidle hillegal, exec_illegal hidle hillegal, exec_illegal hidle hillegal,
      exec_illegal hidle hillegal⟩
  · refine exec_notReady hidle ?_ hneeds hready
    cases i with
    | drawPoint sz ds => exact (sizeLegal_iff sz).2 (hpoint sz ds rfl)
    | drawLine sz ls ds => exact (sizeLegal_iff sz).2 (hline sz ls ds rfl)
    | drawRect sz ls fl ds => exact (sizeLegal_iff sz).2 (hrect sz ls fl ds rfl)
    | drawCircle sz fl ds => exact (sizeLegal_iff sz).2 (hcircle sz fl ds rfl)
    | _ => rfl

/-! ### Block reset (rules R54, R310) -/

/-- Settles O39: block reset of the reset machine itself, whose parameters meet their constraints. -/
theorem resetMeetsTheInvariant : Obligations.ResetMeetsTheInvariant := blockReset_inv State.reset platform_wf

/-- Every calibration bank holds zeros after block reset. -/
theorem entry_reset_cal (o : BitVec 3) : entry State.reset.cal o = ⟨0, 0, 0, 0⟩ := by
  simp [entry, State.reset, CalBank.reset]

/-- Every register but ID and GEOM reads 0 after block reset. -/
theorem blockReset_readReg_eq_zero (s : State) {r : HostReg} (hid : r ≠ .id) (hgeom : r ≠ .geom) :
    s.blockReset.readReg r = 0 := by
  cases r with
  | id => exact absurd rfl hid
  | geom => exact absurd rfl hgeom
  | status => exact (by decide : Status.reset.toWord false = 0)
  | calXfac => exact congrArg CalBank.xfac (entry_reset_cal 0)
  | calYfac => exact congrArg CalBank.yfac (entry_reset_cal 0)
  | calXoff => exact congrArg CalBank.xoff (entry_reset_cal 0)
  | calYoff => exact congrArg CalBank.yoff (entry_reset_cal 0)
  | _ => rfl

/-- GEOM reads the dimensions of orientation 0 after block reset. -/
theorem blockReset_geom (s : State) :
    s.blockReset.geom = packHalves (BitVec.ofNat 16 s.cfg.nativeH) (BitVec.ofNat 16 s.cfg.nativeW) := by
  have hswap : swapAxes State.reset.orient = false := by decide
  simp [State.geom, height, width, hswap]

/-- What a read at an offset of the window returns under reset. -/
theorem blockReset_readReg_registerAt (s : State) {off w : Nat} {r : HostReg} (h : registerAt off w = some r) :
    s.blockReset.readReg r =
      if off = 0x00 then idWord
      else if off = 0x1C then packHalves (BitVec.ofNat 16 s.cfg.nativeH) (BitVec.ofNat 16 s.cfg.nativeW)
      else 0 := by
  have hid := registerAt_id_iff h
  have hgeom := registerAt_geom_iff h
  split
  · next hoff => rw [hid.2 hoff]; rfl
  · next hoff =>
    split
    · next hoff' => rw [hgeom.2 hoff']; exact blockReset_geom s
    · next hoff' => exact blockReset_readReg_eq_zero s (mt hid.1 hoff) (mt hgeom.1 hoff')

/-- Block reset makes every pixel of the panel unknown (rule R86). -/
theorem readPixel_afterReset (busy : Bool) (p : Panel) (x y : Nat) : readPixel (p.afterReset busy).img x y = none := by
  cases busy <;> rfl

theorem step_reset {s : State} {a : Option Access} {rest : List Input} (h : s.inputs = .reset a :: rest) :
    step s = (State.blockReset { s with inputs := rest }).accessInReset a := by
  simp only [step, State.cycle, h]
  rfl

/-- Under reset a read delivers its value, and a write to the window does nothing. -/
theorem accessInReset_eq (s : State) {a : Option Access}
    (h : ∀ acc ∈ a, ∃ off v, (acc = .read off 4 ∨ acc = .write off 4 v) ∧ off % 4 = 0 ∧ off < 0x80) :
    (∃ off r, a = some (.read off 4) ∧ registerAt off 4 = some r ∧
      s.accessInReset a = .next (s.deliver off (s.readReg r))) ∨
    ((∀ off, a ≠ some (.read off 4)) ∧ s.accessInReset a = .next s) := by
  cases a with
  | none => exact .inr ⟨by simp, rfl⟩
  | some acc =>
    obtain ⟨off, v, hacc, halign, hrange⟩ := h acc rfl
    obtain ⟨r, hr⟩ := Option.isSome_iff_exists.1 ((registerAt_isSome off 4).2 ⟨rfl, halign, hrange⟩)
    rcases hacc with rfl | rfl
    · exact .inl ⟨off, r, rfl, hr, access_read_eq s hr⟩
    · exact .inr ⟨by simp, by simp only [State.accessInReset, hr]⟩

/-- Settles O36: the state under reset is the block reset of the state before, with at most one value read from it. -/
theorem blockResetValues : Obligations.BlockResetValues := by
  intro s a rest hinputs hacc geom
  have hzero {reg : HostReg} := blockReset_readReg_eq_zero { s with inputs := rest } (r := reg)
  rw [step_reset hinputs]
  rcases accessInReset_eq (State.blockReset { s with inputs := rest }) hacc with
    ⟨off, r, rfl, hr, hstep⟩ | ⟨hnone, hstep⟩
  · refine ⟨_, hstep, rfl, rfl, blockReset_geom _, fun _ => hzero, entry_reset_cal, rfl, rfl, rfl, rfl, rfl, rfl,
      readPixel_afterReset _ _, rfl, fun off' hoff => ?_, fun hne => absurd rfl (hne off)⟩
    obtain rfl : off = off' := by simpa using hoff
    rw [State.deliver_reads, blockReset_readReg_registerAt _ hr]
    rfl
  · exact ⟨_, hstep, rfl, rfl, blockReset_geom _, fun _ => hzero, entry_reset_cal, rfl, rfl, rfl, rfl, rfl, rfl,
      readPixel_afterReset _ _, rfl, fun off hoff => absurd hoff (hnone off), fun _ => rfl⟩

end Sys2Proof.Machine

/-! What a commit and a host access may change, and from that who may change a register in any step. -/

namespace Sys2Proof.Machine

/-! ### The sticky bits of a commit (rules R24, R49) -/

/-- The commit of `r` in `s` takes this transform result (rules R244, R270). -/
def CommitMaps (s : State) (r : Running) (res : XformResult) : Prop :=
  (r.cmd = .map ∧ s.xform s.argl.x0 s.argl.y0 = res) ∨
  (r.cmd = .touchScan ∧ scanPressed s.cfg r = true ∧
    s.xform (readsMean s.cfg r.rx).1 (readsMean s.cfg r.rx).2 = res)

/-- The sticky bits the commit of `r` sets in `s`: DONE, ESEQ, UNSUP, MAPERR and JUSTP (rule R49). -/
def CommitSets (s : State) (r : Running) (k : Nat) : Prop :=
  k = 8 ∨ (k = 13 ∧ r.cmd = .stream ∧ s.status.winopen = false) ∨ (k = 14 ∧ CommitMaps s r .unsupported) ∨
  (k = 15 ∧ CommitMaps s r .unrepresentable) ∨
  (k = 16 ∧ r.cmd = .touchScan ∧ scanPressed s.cfg r = true ∧ s.status.pressed = false)

/-- No commit writes OVR, ILL, EARG or NRDY; ESEQ is STREAM's, UNSUP and MAPERR a transform's, JUSTP TOUCH_SCAN's. -/
theorem commit_sticky_fields (r : Running) (s : State) :
    let st := (commit r s).status
    (st.ovr = s.status.ovr ∧ st.ill = s.status.ill ∧ st.earg = s.status.earg ∧ st.nrdy = s.status.nrdy) ∧
    (st.eseq = true ↔ (r.cmd = .stream ∧ s.status.winopen = false) ∨ s.status.eseq = true) ∧
    (st.unsup = true ↔ CommitMaps s r .unsupported ∨ s.status.unsup = true) ∧
    (st.maperr = true ↔ CommitMaps s r .unrepresentable ∨ s.status.maperr = true) ∧
    (st.justp = true ↔
      (r.cmd = .touchScan ∧ scanPressed s.cfg r = true ∧ s.status.pressed = false) ∨ s.status.justp = true) := by
  obtain ⟨cmd, todo, rx, pen, ramwr⟩ := r
  cases cmd with
  | stream => cases hopen : s.status.winopen <;> simp [commit, commitResults, commitStream, CommitMaps, hopen]
  | map =>
    cases hx : s.xform s.argl.x0 s.argl.y0 <;> simp [commit, commitResults, commitMap, CommitMaps, hx]
  | touchScan =>
    cases hpressed : scanPressed s.cfg ⟨.touchScan, todo, rx, pen, ramwr⟩ with
    | false => simp [commit, commitResults, commitTouchScan, CommitMaps, hpressed]
    | true =>
      cases hx : s.xform (readsMean s.cfg rx).1 (readsMean s.cfg rx).2 <;>
        simp [commit, commitResults, commitTouchScan, State.commitPress, CommitMaps, hpressed, hx, or_comm]
  | _ =>
    exact ⟨⟨rfl, rfl, rfl, rfl⟩, (or_iff_right (by simp)).symm, (or_iff_right (by simp [CommitMaps])).symm,
      (or_iff_right (by simp [CommitMaps])).symm, (or_iff_right (by simp)).symm⟩

/-- A sticky bit is set after a commit exactly when the commit sets it or it was set before. -/
theorem commit_sticky_iff (r : Running) (s : State) {k : Nat} (hk : 8 ≤ k) :
    (commit r s).status.sticky k = true ↔ CommitSets s r k ∨ s.status.sticky k = true := by
  obtain ⟨⟨hovr, hill, hearg, hnrdy⟩, heseq, hunsup, hmaperr, hjustp⟩ := commit_sticky_fields r s
  by_cases hk' : k < 17
  · interval_cases k <;>
      simp [Status.sticky, Status.bits, CommitSets, hovr, hill, hearg, hnrdy, heseq, hunsup, hmaperr, hjustp]
  · have hzero (st : Status) : st.sticky k = false := List.getD_eq_default _ _ (Nat.le_of_not_lt hk')
    have hsets : ¬CommitSets s r k := by
      simp only [CommitSets]
      omega
    simp [hzero, hsets]

/-! ### The registers of a commit (rules R31, R32, R273, R316) -/

theorem State.commitXform_ready (res : XformResult) (s : State) :
    (s.commitXform res).status.ready = s.status.ready := by cases res <;> rfl

/-- A transform's result goes to TSX and TSY together, or to neither (rule R273). -/
theorem State.commitXform_screen (res : XformResult) (s : State) :
    ((s.commitXform res).tsx = s.tsx ∧ (s.commitXform res).tsy = s.tsy) ∨
    res = .ok (s.commitXform res).tsx (s.commitXform res).tsy := by
  cases res with
  | ok sx sy => exact .inr rfl
  | unsupported => exact .inl ⟨rfl, rfl⟩
  | unrepresentable => exact .inl ⟨rfl, rfl⟩

/-- Which commands' commits may write ORIENT, READY, TRAW, and TSX with TSY. -/
theorem commit_registers (r : Running) (s : State) :
    let t := commit r s
    (t.orient = s.orient ∨ r.cmd = .setOrient t.orient ∨ ∃ bl, r.cmd = .beginPanel t.orient bl) ∧
    (t.status.ready = s.status.ready ∨ t.status.ready = true ∧ ∃ o bl, r.cmd = .beginPanel o bl) ∧
    (t.traw = s.traw ∨ r.cmd ∈ ([.touchRaw, .touchAvg, .touchTwice, .touchScan] : List Instr)) ∧
    ((t.tsx = s.tsx ∧ t.tsy = s.tsy) ∨
      r.cmd ∈ ([.map, .touchScan] : List Instr) ∧ ∃ rx ry, s.xform rx ry = .ok t.tsx t.tsy) := by
  obtain ⟨cmd, todo, rx, pen, ramwr⟩ := r
  cases cmd with
  | beginPanel o bl => exact ⟨.inr (.inr ⟨bl, rfl⟩), .inr ⟨rfl, o, bl, rfl⟩, .inl rfl, .inl ⟨rfl, rfl⟩⟩
  | setOrient o => exact ⟨.inr (.inl rfl), .inl rfl, .inl rfl, .inl ⟨rfl, rfl⟩⟩
  | stream =>
    simp only [commit, commitResults, commitStream]
    split <;> exact ⟨.inl rfl, .inl rfl, .inl rfl, .inl ⟨rfl, rfl⟩⟩
  | touchRaw | touchAvg | touchTwice => exact ⟨.inl rfl, .inl rfl, .inr (by simp), .inl ⟨rfl, rfl⟩⟩
  | touchScan =>
    simp only [commit, commitResults, commitTouchScan]
    split
    · exact ⟨.inl (State.commitXform_orient _ _), .inl (State.commitXform_ready _ _), .inr (by simp),
        (State.commitXform_screen _ _).imp_right fun hx => ⟨by simp, _, _, hx⟩⟩
    · exact ⟨.inl rfl, .inl rfl, .inl rfl, .inl ⟨rfl, rfl⟩⟩
  | map =>
    exact ⟨.inl (State.commitXform_orient _ _), .inl (State.commitXform_ready _ _),
      .inl (State.commitXform_traw _ _),
      (State.commitXform_screen _ _).imp_right fun hx => ⟨by simp, _, _, hx⟩⟩
  | _ => exact ⟨.inl rfl, .inl rfl, .inl rfl, .inl ⟨rfl, rfl⟩⟩

/-! ### What a host access keeps (rules R36, R47, R51, R73) -/

/-- The result registers and the parameters, which no host access writes, hold the same in both states. -/
structure KeepsResults (s t : State) : Prop where
  orient : t.orient = s.orient
  ready : t.status.ready = s.status.ready
  traw : t.traw = s.traw
  tsx : t.tsx = s.tsx
  tsy : t.tsy = s.tsy
  cfg : t.cfg = s.cfg

/-- The calibration registers hold the same in both states. -/
structure KeepsCal (s t : State) : Prop where
  sel : t.calSel = s.calSel
  banks : t.cal = s.cal
  valid : t.calValid = s.calValid

/-- The transform reads ORIENT, the parameters and the calibration (rule R263). -/
theorem KeepsCal.xform {s t : State} (hcal : KeepsCal s t) (hres : KeepsResults s t) (rx ry : Nat) :
    t.xform rx ry = s.xform rx ry := by
  simp only [State.xform, hcal.banks, hcal.valid, hres.orient, hres.cfg]

/-- Everything a CMD write leaves: a sticky bit more, or the start of a command on an idle machine (rule R38). -/
theorem writeCmd_next_cases {v : Word} {s t : State} (h : s.writeCmd v = .next t) :
    t = s.overrun ∨ t = s.rejectIll ∨ t = s.rejectEarg ∨ t = s.rejectNrdy ∨
      s.busy = false ∧ ∃ i acts, t = (s.latch i).start i acts := by
  rcases writeCmd_cases v s with ⟨_, hw⟩ | ⟨_, _, hw⟩ | ⟨i, _, _, hw⟩
  · cases hw.symm.trans h
    exact .inl rfl
  · cases hw.symm.trans h
    exact .inr (.inl rfl)
  · rcases exec_cases i s with ⟨_, he⟩ | ⟨_, he⟩ | ⟨_, _, _, he⟩ | ⟨hidle, _, acts, he⟩ <;>
      cases (hw.trans he).symm.trans h
    · exact .inl rfl
    · exact .inr (.inr (.inl rfl))
    · exact .inr (.inr (.inr (.inl rfl)))
    · exact .inr (.inr (.inr (.inr ⟨hidle, i, acts, rfl⟩)))

/-- A calibration write is an overrun, or the write on an idle machine (rule R50). -/
theorem writeCal_cases (write : State → State) (s : State) :
    s.writeCal write = s.overrun ∨ s.busy = false ∧ s.writeCal write = write s := by
  cases h : s.busy with
  | false => exact .inr ⟨rfl, writeCal_idle write h⟩
  | true => exact .inl (writeCal_busy write h)

theorem writeReg_keepsResults {v : Word} {s t : State} {r : HostReg} (h : s.writeReg v r = .next t) :
    KeepsResults s t := by
  cases r with
  | cmd =>
    rcases writeCmd_next_cases h with rfl | rfl | rfl | rfl | ⟨_, i, acts, rfl⟩ <;>
      exact ⟨rfl, rfl, rfl, rfl, rfl, rfl⟩
  | calSel | calXfac | calYfac | calXoff | calYoff | calValid =>
    cases h
    rcases writeCal_cases _ s with hw | ⟨_, hw⟩ <;> rw [hw] <;> exact ⟨rfl, rfl, rfl, rfl, rfl, rfl⟩
  | _ =>
    cases h
    exact ⟨rfl, rfl, rfl, rfl, rfl, rfl⟩

/-- Only a write to a calibration register on an idle machine changes the calibration (rule R50). -/
theorem writeReg_keepsCal {v : Word} {s t : State} {r : HostReg} (h : s.writeReg v r = .next t) :
    KeepsCal s t ∨ s.busy = false ∧ r.isCal = true := by
  cases r with
  | cmd =>
    rcases writeCmd_next_cases h with rfl | rfl | rfl | rfl | ⟨_, i, acts, rfl⟩ <;> exact .inl ⟨rfl, rfl, rfl⟩
  | calSel | calXfac | calYfac | calXoff | calYoff | calValid =>
    cases h
    rcases writeCal_cases _ s with hw | ⟨hidle, _⟩
    · exact .inl (hw ▸ ⟨rfl, rfl, rfl⟩)
    · exact .inr ⟨hidle, rfl⟩
  | _ =>
    cases h
    exact .inl ⟨rfl, rfl, rfl⟩

/-- No register write touches a running command (rule R38). -/
theorem writeReg_engine_of_busy {v : Word} {s t : State} {r : HostReg} (hbusy : s.busy = true)
    (h : s.writeReg v r = .next t) : t.engine = s.engine := by
  cases r with
  | cmd =>
    cases (writeCmd_busy hbusy v).symm.trans h
    rfl
  | calSel | calXfac | calYfac | calXoff | calYoff | calValid =>
    cases (writeReg_cal_busy hbusy v rfl).symm.trans h
    rfl
  | _ =>
    cases h
    rfl

/-- Only a write to STATUS clears a sticky bit, and only one it writes as 1 (rule R24). -/
theorem writeReg_sticky {v : Word} {s t : State} {r : HostReg} (h : s.writeReg v r = .next t) {k : Nat}
    (hset : s.status.sticky k = true) : t.status.sticky k = true ∨ r = .status ∧ v.getLsbD k = true := by
  cases r with
  | status =>
    cases h
    rw [Status.sticky] at hset
    cases hv : v.getLsbD k with
    | false =>
      left
      rw [Status.sticky, Status.bits_clearW1C, hset, hv]
      simp
    | true => exact .inr ⟨rfl, rfl⟩
  | cmd =>
    left
    rcases writeCmd_next_cases h with rfl | rfl | rfl | rfl | ⟨_, i, acts, rfl⟩
    · exact getD_set_true 9 hset
    · exact getD_set_true 10 (getD_set_true 8 hset)
    · exact getD_set_true 11 (getD_set_true 8 hset)
    · exact getD_set_true 12 (getD_set_true 8 hset)
    · exact hset
  | calSel | calXfac | calYfac | calXoff | calYoff | calValid =>
    cases h
    rcases writeCal_cases _ s with hw | ⟨_, hw⟩ <;> rw [hw]
    · exact .inl (getD_set_true 9 hset)
    · exact .inl hset
  | _ =>
    cases h
    exact .inl hset

/-! ### The host's part of a step and the engine's (rules R335, R336) -/

/-- The host's part of a step from `s`: it takes no access, or a read that changes nothing else, or a write. -/
def HostPart (s u : State) : Prop :=
  (∃ inputs reads, u = { s with inputs := inputs, reads := reads }) ∨
  ∃ off v tick rest r, s.inputs = .access (.write off 4 v) tick :: rest ∧ registerAt off 4 = some r ∧
    State.writeReg v { s with inputs := rest } r = .next u

theorem hostPart_of_access {s u : State} {a : Access} {tick : Bool} {rest : List Input}
    (hinputs : s.inputs = .access a tick :: rest) (h : State.access { s with inputs := rest } a = .next u) :
    HostPart s u := by
  rcases access_cases _ _ _ h with ⟨off, w, r, _, _, rfl⟩ | ⟨off, w, v, r, rfl, hr, hw⟩
  · exact .inl ⟨rest, _, rfl⟩
  · obtain ⟨rfl, _⟩ := registerAt_eq_some hr
    exact .inr ⟨off, v, tick, rest, r, hinputs, hr, hw⟩

theorem HostPart.keepsResults {s u : State} (h : HostPart s u) : KeepsResults s u := by
  rcases h with ⟨inputs, reads, rfl⟩ | ⟨off, v, tick, rest, r, _, _, hw⟩
  · exact ⟨rfl, rfl, rfl, rfl, rfl, rfl⟩
  · obtain ⟨horient, hready, htraw, htsx, htsy, hcfg⟩ := writeReg_keepsResults hw
    exact ⟨horient, hready, htraw, htsx, htsy, hcfg⟩

theorem HostPart.keepsCal {s u : State} (h : HostPart s u) : KeepsCal s u ∨
    s.busy = false ∧ ∃ off v tick, s.inputs.head? = some (.access (.write off 4 v) tick) ∧ 0x30 ≤ off ∧ off ≤ 0x44 := by
  rcases h with ⟨inputs, reads, rfl⟩ | ⟨off, v, tick, rest, r, hinputs, hr, hw⟩
  · exact .inl ⟨rfl, rfl, rfl⟩
  · rcases writeReg_keepsCal hw with ⟨hsel, hbanks, hvalid⟩ | ⟨hidle, hcal⟩
    · exact .inl ⟨hsel, hbanks, hvalid⟩
    · exact .inr ⟨hidle, off, v, tick, by rw [hinputs]; rfl, registerAt_isCal hr hcal⟩

/-- While BUSY is 1 the host touches neither the running command nor the calibration (rules R38, R50). -/
theorem HostPart.of_busy {s u : State} (h : HostPart s u) (hbusy : s.busy = true) :
    u.engine = s.engine ∧ KeepsCal s u := by
  have hcal : KeepsCal s u := h.keepsCal.resolve_right fun ⟨hidle, _⟩ => absurd (hbusy.symm.trans hidle) (by decide)
  rcases h with ⟨inputs, reads, rfl⟩ | ⟨off, v, tick, rest, r, _, _, hw⟩
  · exact ⟨rfl, hcal⟩
  · exact ⟨writeReg_engine_of_busy (s := { s with inputs := rest }) hbusy hw, hcal⟩

theorem HostPart.sticky {s u : State} (h : HostPart s u) {k : Nat} (hset : s.status.sticky k = true) :
    u.status.sticky k = true ∨
      ∃ v tick, s.inputs.head? = some (.access (.write 0x04 4 v) tick) ∧ v.getLsbD k = true := by
  rcases h with ⟨inputs, reads, rfl⟩ | ⟨off, v, tick, rest, r, hinputs, hr, hw⟩
  · exact .inl hset
  · refine (writeReg_sticky hw hset).imp_right fun ⟨hstatus, hv⟩ => ⟨v, tick, ?_, hv⟩
    subst hstatus
    rw [hinputs, registerAt_status hr]
    rfl

/-- A step is a block reset, or the host's part, after which a running engine may take its step. -/
theorem step_parts {s t : State} (h : step s = .next t) :
    (∃ a rest, s.inputs = .reset a :: rest ∧
      State.accessInReset (State.blockReset { s with inputs := rest }) a = .next t) ∨
    ∃ u, HostPart s u ∧ (t = u ∨ s.busy = true ∧ t = engineStep u) := by
  have hstepped {u : State} (hu : HostPart s u) (hengine : u.engine = s.engine) (ht : t = engineStep u) :
      ∃ u, HostPart s u ∧ (t = u ∨ s.busy = true ∧ t = engineStep u) := by
    refine ⟨u, hu, ?_⟩
    cases hbusy : s.busy with
    | false =>
      have hidle : u.engine = .idle := hengine.trans ((State.not_busy_iff s).1 hbusy)
      exact .inl (ht.trans (engineStep_idle u hidle))
    | true => exact .inr ⟨rfl, ht⟩
  rcases step_cases s t h with ⟨_, ht⟩ | ⟨a, tick, rest, u, hinputs, hu, ht⟩ | ⟨rest, _, ht⟩ | ⟨rest, _, ht⟩ |
    ⟨a, rest, hinputs, hr⟩
  · exact .inr (hstepped (.inl ⟨s.inputs, s.reads, rfl⟩) rfl ht)
  · refine .inr ⟨u, hostPart_of_access hinputs hu, ?_⟩
    split at ht
    · next hcond => exact .inr ⟨(Bool.and_eq_true_iff.1 hcond).2, ht⟩
    · exact .inl ht
  · rcases pollTurn_cases { s with inputs := rest } with ⟨_, hp⟩ | ⟨_, hp⟩
    · exact .inr ⟨_, .inl ⟨rest, _, rfl⟩, .inl (ht.trans hp)⟩
    · refine .inr (hstepped ?_ ?_ (ht.trans hp))
      · exact .inl ⟨_, _, rfl⟩
      · rfl
  · exact .inr (hstepped (.inl ⟨rest, s.reads, rfl⟩) rfl ht)
  · exact .inl ⟨a, rest, hinputs, hr⟩

/-- A running engine commits, or makes an event that writes no register. -/
theorem engineStep_run_cases {s : State} {r : Running} (h : s.engine = .run r) :
    (r.todo = [] ∧ engineStep s = commit r s) ∨
    ((engineStep s).status = s.status ∧ KeepsResults s (engineStep s) ∧ KeepsCal s (engineStep s)) := by
  cases htodo : r.todo with
  | nil => exact .inl ⟨rfl, engineStep_commit s r h htodo⟩
  | cons slot rest =>
    right
    rw [engineStep_slot s r slot rest h htodo]
    obtain ⟨hstatus, _, horient, htraw, htsx, htsy, hsel, hbanks, hvalid, _, _, _, _, hcfg, _⟩ :=
      performSlot_frame s r rest slot
    exact ⟨hstatus, ⟨horient, congrArg _ hstatus, htraw, htsx, htsy, hcfg⟩, ⟨hsel, hbanks, hvalid⟩⟩

theorem KeepsResults.trans {s t u : State} (hst : KeepsResults s t) (htu : KeepsResults t u) : KeepsResults s u :=
  ⟨htu.orient.trans hst.orient, htu.ready.trans hst.ready, htu.traw.trans hst.traw, htu.tsx.trans hst.tsx,
    htu.tsy.trans hst.tsy, htu.cfg.trans hst.cfg⟩

theorem KeepsCal.trans {s t u : State} (hst : KeepsCal s t) (htu : KeepsCal t u) : KeepsCal s u :=
  ⟨htu.sel.trans hst.sel, htu.banks.trans hst.banks, htu.valid.trans hst.valid⟩

/-- A commit writes no calibration register (rule R36). -/
theorem commit_keepsCal (r : Running) (s : State) : KeepsCal s (commit r s) := by
  obtain ⟨_, _, _, _, _, _, hsel, hbanks, hvalid, _⟩ := commit_frame r s
  exact ⟨hsel, hbanks, hvalid⟩

/-- What a step leaves: a block reset; or, after the host's part, STATUS, the results and the calibration as they are;
or, after a host's part that keeps the calibration, the commit of the running command. -/
theorem step_outcome {s t : State} (h : step s = .next t) :
    (∃ a rest, s.inputs = .reset a :: rest ∧
      State.accessInReset (State.blockReset { s with inputs := rest }) a = .next t) ∨
    (∃ u, HostPart s u ∧ t.status = u.status ∧ KeepsResults u t ∧ KeepsCal u t) ∨
    ∃ u r, HostPart s u ∧ KeepsCal s u ∧ s.engine = .run r ∧ r.todo = [] ∧ t = commit r u := by
  rcases step_parts h with hreset | ⟨u, hu, rfl | ⟨hbusy, rfl⟩⟩
  · exact .inl hreset
  · exact .inr (.inl ⟨t, hu, rfl, ⟨rfl, rfl, rfl, rfl, rfl, rfl⟩, ⟨rfl, rfl, rfl⟩⟩)
  · obtain ⟨r, hrun⟩ := (State.busy_iff s).1 hbusy
    obtain ⟨hengine, hcal⟩ := hu.of_busy hbusy
    rcases engineStep_run_cases (hengine.trans hrun) with ⟨htodo, ht⟩ | ⟨hstatus, hres, hcal'⟩
    · exact .inr (.inr ⟨u, r, hu, hcal, hrun, htodo, ht⟩)
    · exact .inr (.inl ⟨u, hu, hstatus, hres, hcal'⟩)

/-- Settles O40: a register changes by block reset, by the host's part of a step, which is a calibration write, or by
the commit of a command that may write it. -/
theorem registersHaveOneWriter : Obligations.RegistersHaveOneWriter := by
  intro s t hstep wasReset commits
  rcases step_outcome hstep with ⟨a, rest, hinputs, hr⟩ | ⟨u, hu, _, hres, hcal⟩ | ⟨u, r, hu, hcal, hrun, htodo, rfl⟩
  · have hreset : wasReset := ⟨a, by rw [hinputs]; rfl⟩
    obtain ⟨hnotReady, hcfg⟩ : t.status.ready = false ∧ t.cfg = s.cfg := by
      rcases accessInReset_cases _ t a hr with rfl | ⟨off, v, rfl⟩ <;> exact ⟨rfl, rfl⟩
    refine ⟨fun _ => .inl hreset, fun hready => ?_, fun _ _ => hreset, fun _ => .inl hreset, fun _ => .inl hreset,
      fun _ => .inl hreset, hcfg⟩
    simp [hnotReady] at hready
  · obtain ⟨horient, hready, htraw, htsx, htsy, hcfg⟩ := hu.keepsResults.trans hres
    refine ⟨fun hne => absurd horient hne, fun hset hclear => ?_, fun hclear hset => ?_, fun hne => absurd htraw hne,
      fun hne => absurd ⟨htsx, htsy⟩ (not_and_or.2 hne), fun hne => ?_, hcfg⟩
    · simp [hready, hclear] at hset
    · simp [hready, hset] at hclear
    · refine .inr (hu.keepsCal.resolve_left fun hhost => ?_)
      obtain ⟨hsel, hbanks, hvalid⟩ := hhost.trans hcal
      simp [hsel, hbanks, hvalid] at hne
  · obtain ⟨horient, hready, htraw, hscreen⟩ := commit_registers r u
    obtain ⟨_, _, _, _, _, _, _, _, _, hcfg, _⟩ := commit_frame r u
    have hres := hu.keepsResults
    refine ⟨fun hne => .inr ⟨r, hrun, htodo, ?_⟩, fun hset hclear => ⟨r, hrun, htodo, ?_⟩, fun hclear hset => ?_,
      fun hne => .inr ⟨r, hrun, htodo, ?_⟩, fun hne => .inr ?_, fun hne => ?_, hcfg.trans hres.cfg⟩
    · exact horient.resolve_left fun heq => hne (heq.trans hres.orient)
    · rcases hready with heq | ⟨_, hbegin⟩
      · simp [heq, hres.ready, hclear] at hset
      · exact hbegin
    · rcases hready with heq | ⟨hset', _⟩
      · simp [heq, hres.ready, hset] at hclear
      · simp [hset'] at hclear
    · exact htraw.resolve_left fun heq => hne (heq.trans hres.traw)
    · rcases hscreen with ⟨htsx, htsy⟩ | ⟨hcmd, rx, ry, hx⟩
      · exact absurd ⟨htsx.trans hres.tsx, htsy.trans hres.tsy⟩ (not_and_or.2 hne)
      · exact ⟨r, hrun, htodo, hcmd, rx, ry, (hcal.xform hres rx ry).symm.trans hx⟩
    · obtain ⟨hsel, hbanks, hvalid⟩ := hcal.trans (commit_keepsCal r u)
      simp [hsel, hbanks, hvalid] at hne

/-- Settles O41: beside block reset only a STATUS write clears a sticky bit, and an engine step only sets some. -/
theorem onlyTheHostClearsStickyBits : Obligations.OnlyTheHostClearsStickyBits := by
  intro s t k hstep hk hset hclear
  rw [readReg_status_sticky _ hk] at hset hclear
  rcases step_outcome hstep with ⟨a, rest, hinputs, _⟩ | ⟨u, hu, hstatus, _⟩ | ⟨u, r, hu, _, _, _, rfl⟩
  · exact .inl ⟨a, by rw [hinputs]; rfl⟩
  · rw [hstatus] at hclear
    exact .inr ((hu.sticky hset).resolve_left (by simp [hclear]))
  · refine .inr ((hu.sticky hset).resolve_left fun hkept => ?_)
    have hstill := (commit_sticky_iff r u hk).2 (.inr hkept)
    simp [hstill] at hclear

/-! ### A STATUS write beside an engine step (rule R24) -/

/-- An engine step that makes an event changes no register of the window. -/
theorem performSlot_readReg {s : State} {r : Running} (h : s.engine = .run r) (rest : List Slot) (slot : Slot)
    (reg : HostReg) : (s.performSlot r rest slot).readReg reg = s.readReg reg := by
  obtain ⟨hstatus, harg, horient, htraw, htsx, htsy, hsel, hbanks, hvalid, _, _, _, _, hcfg, _⟩ :=
    performSlot_frame s r rest slot
  obtain ⟨_, _, _, r', hrun, _⟩ := performSlot_log s r rest slot
  have hbusy : (s.performSlot r rest slot).busy = s.busy :=
    ((State.busy_iff _).2 ⟨r', hrun⟩).trans ((State.busy_iff s).2 ⟨r, h⟩).symm
  cases reg <;>
    simp only [State.readReg, State.geom, hstatus, hbusy, harg, horient, htraw, htsx, htsy, hsel, hbanks, hvalid, hcfg]

/-- The state after a STATUS write, before any engine step of the same cycle. -/
def State.afterStatusWrite (s : State) (v : Word) (rest : List Input) : State :=
  { s with inputs := rest, status := s.status.clearW1C v }

theorem step_statusWrite {s : State} {v : Word} {tick : Bool} {rest : List Input}
    (h : s.inputs = .access (.write 0x04 4 v) tick :: rest) :
    step s = thenEngine (tick && s.busy) (.next (s.afterStatusWrite v rest)) := by
  rw [step_access h, access_write_eq _ v (r := .status) rfl]
  rfl

theorem afterStatusWrite_status_bit (s : State) (v : Word) (rest : List Input) (k : Nat) :
    ((s.afterStatusWrite v rest).readReg .status).getLsbD k =
      ((s.readReg .status).getLsbD k && !(decide (8 ≤ k) && decide (k ≤ 16) && v.getLsbD k)) := by
  rw [readReg_status_bit, readReg_status_bit]
  exact Status.bits_clearW1C v s.status s.busy k

theorem afterStatusWrite_readReg (s : State) (v : Word) (rest : List Input) {reg : HostReg} (h : reg ≠ .status) :
    (s.afterStatusWrite v rest).readReg reg = s.readReg reg := by
  cases reg with
  | status => exact absurd rfl h
  | _ => rfl

/-- Settles O33: the write acts first, and what the engine's step then sets is set. -/
theorem statusWriteClearsAndSettingWins : Obligations.StatusWriteClearsAndSettingWins := by
  intro s v tick rest hinputs kept
  have hkept := afterStatusWrite_status_bit s v rest
  cases hcond : tick && s.busy with
  | false =>
    refine ⟨s.afterStatusWrite v rest, by rw [step_statusWrite hinputs, hcond]; rfl, fun _ => ⟨rfl, hkept⟩,
      fun htick r hrun => ?_⟩
    have hbusy : s.busy = true := (State.busy_iff s).2 ⟨r, hrun⟩
    simp [htick, hbusy] at hcond
  | true =>
    obtain ⟨htick, hbusy⟩ := Bool.and_eq_true_iff.1 hcond
    refine ⟨engineStep (s.afterStatusWrite v rest), by rw [step_statusWrite hinputs, hcond]; rfl,
      fun hno => absurd hno (by simp [htick, hbusy]), ?_⟩
    intro _ r hrun mapped sets
    refine ⟨fun htodo => ?_, fun htodo => ?_⟩
    · obtain ⟨slot, todo, hslots⟩ := List.exists_cons_of_ne_nil htodo
      rw [engineStep_slot (s.afterStatusWrite v rest) r slot todo hrun hslots]
      have hreg := performSlot_readReg (s := s.afterStatusWrite v rest) hrun todo slot
      obtain ⟨e, hlog, _⟩ := performSlot_log (s.afterStatusWrite v rest) r todo slot
      obtain ⟨_, _, _, _, _, _, _, hbanks, _⟩ := performSlot_frame (s.afterStatusWrite v rest) r todo slot
      exact ⟨⟨e, hlog⟩, fun reg hne => (hreg reg).trans (afterStatusWrite_readReg s v rest hne), hbanks,
        fun k => by rw [hreg, hkept]⟩
    · rw [engineStep_commit (s.afterStatusWrite v rest) r hrun htodo]
      obtain ⟨hlog, _⟩ := commit_frame r (s.afterStatusWrite v rest)
      refine ⟨rfl, hlog, fun k hk => ?_⟩
      rw [readReg_status_sticky _ hk, commit_sticky_iff r _ hk, ← readReg_status_sticky _ hk, hkept]
      exact Iff.rfl

/-! ### A run to its commit (rules R40, R338) -/

/-- How many engine steps are enough for these slots and the commit: a pen level UP leaves at most the two CLOSE events
of `finish()`, and the commit (rule R244). -/
def stepsToCommit : List Slot → Nat
  | [] => 1
  | .samplePen :: rest => max (stepsToCommit rest) 3 + 1
  | _ :: rest => stepsToCommit rest + 1

theorem stepsToCommit_le (todo : List Slot) : stepsToCommit todo ≤ todo.length + 3 := by
  induction todo with
  | nil => decide
  | cons slot rest ih =>
    rw [List.length_cons]
    cases slot <;> simp only [stepsToCommit] <;> omega

theorem stepsToCommit_closeSlots (σ : Sessions) : stepsToCommit (closeSlots σ) ≤ 3 := by
  obtain ⟨panel, touch⟩ := σ
  cases panel <;> cases touch <;> decide

/-- A slot brings the running command nearer to its commit. -/
theorem performSlot_stepsToCommit {s : State} {r r' : Running} {slot : Slot} {rest : List Slot}
    (h : (s.performSlot r rest slot).engine = .run r') : stepsToCommit r'.todo + 1 ≤ stepsToCommit (slot :: rest) := by
  obtain ⟨_, _, _, r'', hrun, _, htodo⟩ := performSlot_log s r rest slot
  obtain rfl : r' = r'' := by simpa using h.symm.trans hrun
  rcases htodo with htodo | ⟨rfl, htodo⟩
  · rw [htodo]
    cases slot <;> simp only [stepsToCommit] <;> omega
  · have hclose := stepsToCommit_closeSlots s.sess
    rw [htodo]
    simp only [stepsToCommit]
    omega

/-- A running command reaches its commit; what every event keeps holds in the state the commit starts from. -/
theorem engineSteps_commits {P : State → Prop}
    (hP : ∀ s r slot rest, s.engine = .run r → r.todo = slot :: rest → P s → P (s.performSlot r rest slot)) (n : Nat) :
    ∀ (s : State) (r : Running), s.engine = .run r → stepsToCommit r.todo ≤ n → P s →
      ∃ s' r', engineSteps n s = commit r' s' ∧ s'.engine = .run r' ∧ r'.todo = [] ∧ P s' := by
  induction n with
  | zero =>
    intro s r _ hn
    have hpos : 1 ≤ stepsToCommit r.todo := by cases r.todo with
      | nil => decide
      | cons slot rest => cases slot <;> simp [stepsToCommit]
    omega
  | succ n ih =>
    intro s r hrun hn hs
    cases htodo : r.todo with
    | nil =>
      refine ⟨s, r, ?_, hrun, htodo, hs⟩
      rw [engineSteps_succ, engineStep_commit s r hrun htodo, engineSteps_idle _ _ rfl]
    | cons slot rest =>
      obtain ⟨_, _, _, r', hrun', _⟩ := performSlot_log s r rest slot
      have hless := performSlot_stepsToCommit hrun'
      rw [engineSteps_succ, engineStep_slot s r slot rest hrun htodo]
      exact ih _ r' hrun' (by rw [htodo] at hn; omega) (hP s r slot rest hrun htodo hs)

theorem settle_commits {P : State → Prop}
    (hP : ∀ s r slot rest, s.engine = .run r → r.todo = slot :: rest → P s → P (s.performSlot r rest slot))
    {s : State} {r : Running} (hrun : s.engine = .run r) (hs : P s) :
    ∃ s' r', s.settle = commit r' s' ∧ s'.engine = .run r' ∧ r'.todo = [] ∧ P s' := by
  have hsteps : stepsToCommit r.todo ≤ s.stepsLeft := by
    simpa [State.stepsLeft, hrun] using stepsToCommit_le r.todo
  exact engineSteps_commits hP s.stepsLeft s r hrun hsteps hs

/-! ### The window after a touch command (rules R42, R230, R331) -/

/-- The commands whose commit closes the window: the touch commands, SET_ORIENT and BEGIN (rule R42). -/
def ClosesWindow (i : Instr) : Prop :=
  i ∈ ([.touchRaw, .touchAvg, .touchTwice, .touchScan] : List Instr) ∨ (∃ o, i = .setOrient o) ∨
    ∃ o bl, i = .beginPanel o bl

theorem commit_winopen_of_closesWindow (r : Running) (s : State) (h : ClosesWindow r.cmd) :
    (commit r s).status.winopen = false := by
  obtain ⟨cmd, todo, rx, pen, ramwr⟩ := r
  cases cmd with
  | touchRaw | touchAvg | touchTwice | touchScan | setOrient _ | beginPanel _ _ => rfl
  | _ => simp [ClosesWindow] at h

/-- Such a command starts on a ready machine at rest, with a well-sequenced procedure. -/
theorem closesWindow_starts {s : State} {i : Instr} (h : ClosesWindow i) (hidle : s.busy = false)
    (hready : s.status.ready = true) :
    ∃ acts, exec i s = .next ((s.latch i).start i acts) ∧ WellSequenced acts := by
  have hstart {needs : Bool} (f : State → List Act) :
      accept i true needs f s = .next ((s.latch i).start i (f (s.latch i))) :=
    accept_starts i needs f s hidle fun _ => hready
  cases i with
  | touchRaw => exact ⟨_, hstart _, wellSequenced_touchRaw _⟩
  | touchAvg => exact ⟨_, hstart _, wellSequenced_touchAvg _⟩
  | touchTwice => exact ⟨_, hstart _, wellSequenced_touchTwice _⟩
  | touchScan => exact ⟨_, hstart _, wellSequenced_touchScan _⟩
  | setOrient o => exact ⟨_, hstart _, wellSequenced_setOrient o _⟩
  | beginPanel o bl => exact ⟨_, hstart _, wellSequenced_begin o bl _⟩
  | _ => simp [ClosesWindow] at h

/-- The machine runs `i` with this STATUS, and the events still to make are allowed where they fall. -/
def RunsSequenced (i : Instr) (st : Status) (s : State) : Prop :=
  s.status = st ∧ ∃ r, s.engine = .run r ∧ r.cmd = i ∧ slotsAllowed s.sess r.todo = true

theorem RunsSequenced.performSlot {i : Instr} {st : Status} (s : State) (r : Running) (slot : Slot) (rest : List Slot)
    (hrun : s.engine = .run r) (htodo : r.todo = slot :: rest) (h : RunsSequenced i st s) :
    RunsSequenced i st (s.performSlot r rest slot) := by
  obtain ⟨hstatus, r', hrun', hcmd, hslots⟩ := h
  obtain rfl : r = r' := by simpa using hrun.symm.trans hrun'
  obtain ⟨hstatus', _⟩ := performSlot_frame s r rest slot
  obtain ⟨r'', hrun'', hcmd'', hslots''⟩ := performSlot_slotsAllowed s r rest slot (htodo ▸ hslots)
  exact ⟨hstatus'.trans hstatus, r'', hrun'', hcmd''.trans hcmd, hslots''⟩

/-- The state in which the commit of a command started at rest happens: every session is closed again. -/
theorem start_settle {s : State} {i : Instr} {acts : List Act} (hs : s.sess = Sessions.closed)
    (hacts : WellSequenced acts) :
    ∃ s' r, (s.start i acts).settle = commit r s' ∧ r.cmd = i ∧ s'.status = s.status ∧
      s'.sess = Sessions.closed := by
  have hslots : slotsAllowed s.sess (plan s.sess acts) = true := by simpa [hs] using hacts.slotsAllowed
  have hstart : RunsSequenced i s.status (s.start i acts) := ⟨rfl, _, rfl, rfl, hslots⟩
  obtain ⟨s', r, hsettle, hrun, htodo, hstatus, r', hrun', hcmd, hallowed⟩ :=
    settle_commits RunsSequenced.performSlot (State.start_engine i acts s) hstart
  obtain rfl : r = r' := by simpa using hrun.symm.trans hrun'
  refine ⟨s', r, hsettle, hcmd, hstatus, ?_⟩
  rcases hσ : s'.sess with ⟨panel, touch⟩
  simpa [htodo, hσ, slotsAllowed, Sessions.closed] using hallowed

/-- STREAM without an open window sends nothing and sets ESEQ (rule R156). -/
theorem exec_stream_closed {s : State} (hs : s.atRest) (hready : s.status.ready = true)
    (hclosed : s.status.winopen = false) :
    ∃ u, exec .stream s = .next u ∧ u.settle.log = s.log ∧ u.settle.status.eseq = true := by
  obtain ⟨hidle, hsess⟩ := hs
  refine ⟨_, accept_starts .stream true streamActs s ((State.not_busy_iff s).2 hidle) fun _ => hready, ?_⟩
  have hplan : plan s.sess (streamActs (s.latch .stream)) = [] := by
    simp [streamActs, hclosed, hsess, plan]
  have hsettle := settle_emits [] ((s.latch .stream).start .stream (streamActs (s.latch .stream))) _ rfl hplan
  rw [hsettle]
  constructor
  · obtain ⟨hlog, _⟩ := commit_frame _ _
    exact hlog
  · obtain ⟨_, heseq, _⟩ := commit_sticky_fields _ _
    exact heseq.2 (.inl ⟨rfl, hclosed⟩)

/-- Settles O43: the run of such a command ends in its commit, which closes the window and leaves the machine ready and
at rest for the STREAM. -/
theorem streamAfterTouchIsRefused : Obligations.StreamAfterTouchIsRefused := by
  intro s i hrest hready hi
  obtain ⟨hidle, hsess⟩ := hrest
  obtain ⟨acts, hexec, hacts⟩ := closesWindow_starts hi ((State.not_busy_iff s).2 hidle) hready
  obtain ⟨s', r, hsettle, rfl, hstatus, hsess'⟩ := start_settle (s := s.latch i) (i := i) hsess hacts
  have hwinopen := commit_winopen_of_closesWindow r s' hi
  obtain ⟨_, hready', _⟩ := commit_registers r s'
  obtain ⟨_, hcommitSess, _⟩ := commit_frame r s'
  have hreadyCommit : (commit r s').status.ready = true := by
    rcases hready' with heq | ⟨hset, _⟩
    · rw [heq, hstatus]
      exact hready
    · exact hset
  obtain ⟨u, hstream, hlog, heseq⟩ := exec_stream_closed ⟨rfl, hcommitSess.trans hsess'⟩ hreadyCommit hwinopen
  refine ⟨_, u, hexec, ?_⟩
  rw [hsettle]
  exact ⟨hwinopen, hstream, hlog, heseq⟩

end Sys2Proof.Machine

/-! Which accesses the machine gives a meaning, and that the events of two commands never mix in the log. -/

namespace Sys2Proof.Machine

/-! ### Refused accesses (rule R70) -/

/-- An access is refused exactly when the model gives its offset and width no register. -/
theorem isNext_access (s : State) (a : Access) : isNext (s.access a) = a.supported := by
  cases a with
  | read off w =>
    simp only [State.access, Access.supported]
    cases registerAt off w <;> rfl
  | write off w v =>
    simp only [State.access, Access.supported]
    cases registerAt off w with
    | none => rfl
    | some r =>
      obtain ⟨t, ht⟩ := writeReg_next v s r
      simp [ht, isNext]

theorem access_unsupported (s : State) {off w : Nat} (v : Word) (h : registerAt off w = none) :
    s.access (.read off w) = .refused (.busAccess off w) ∧
    s.access (.write off w v) = .refused (.busAccess off w) := by
  simp [State.access, h]

/-- An access under reset is refused as at any other time (rule R310). -/
theorem isNext_accessInReset (s : State) (a : Option Access) :
    isNext (s.accessInReset a) = (Input.reset a).supported := by
  cases a with
  | none => rfl
  | some acc =>
    cases acc with
    | read off w => exact isNext_access s (.read off w)
    | write off w v =>
      simp only [State.accessInReset, Input.supported, Access.supported]
      cases registerAt off w <;> rfl

theorem isNext_thenEngine (tick : Bool) (o : Host.Outcome State Fault Refusal) :
    isNext (thenEngine tick o) = isNext o := by
  cases o <;> rfl

/-- An input is refused exactly when it makes an unsupported access. -/
theorem isNext_takeInput (s : State) (i : Input) : isNext (s.takeInput i) = i.supported := by
  cases i with
  | access a tick => exact (isNext_thenEngine _ _).trans (isNext_access s a)
  | poll => rfl
  | engine => rfl
  | reset a => exact isNext_accessInReset _ a

/-- Settles O35: `registerAt` is the one source of a refusal, and a step takes one input. -/
theorem onlyUnsupportedAccessesAreRefused : Obligations.OnlyUnsupportedAccessesAreRefused := by
  refine ⟨fun s off w v => ⟨fun hsupported => ?_, fun hunsupported => ?_⟩, fun s => ?_⟩
  · have hreg := (registerAt_isSome off w).2 hsupported
    exact ⟨(isNext_access s (.read off w)).trans hreg, (isNext_access s (.write off w v)).trans hreg⟩
  · refine access_unsupported s v (Option.not_isSome_iff_eq_none.1 ?_)
    rwa [registerAt_isSome]
  · simp only [step, State.cycle]
    cases s.inputs with
    | nil => rfl
    | cons i rest => exact isNext_takeInput _ i

/-! ### What a slot makes (rules R41, R76, R244) -/

/-- May the slot make this event? Its own, a response byte, or a pen level. -/
def Slot.mayMake : Slot → Event → Prop
  | .emit d, e => e = d
  | .receive, e => ∃ b, e = .trx b
  | .samplePen, e => ∃ l, e = .pen l

/-- The slots left after one that made the event `e`: those after it, but only `finish()` after a pen level UP (rule
R244). -/
def Slot.left (slot : Slot) (e : Event) (σ : Sessions) (rest : List Slot) : List Slot :=
  if slot = .samplePen ∧ e = .pen .up then closeSlots σ else rest

/-- A slot makes one event; all of the machine but ENG and the lists of given draws is as that event leaves it. -/
theorem performSlot_event (s : State) (r : Running) (rest : List Slot) (slot : Slot) :
    ∃ e r' touch pen, slot.mayMake e ∧ r'.cmd = r.cmd ∧ r'.todo = slot.left e s.sess rest ∧
      s.performSlot r rest slot =
        { s.performEvent e with engine := .run r', touchIn := touch, penIn := pen } := by
  cases slot with
  | emit e =>
    refine ⟨e, _, _, _, rfl, ?_, ?_, rfl⟩
    · simp [noteRamwr_eq]
    · simp [noteRamwr_eq, Slot.left]
  | receive =>
    refine ⟨.trx s.nextTouchByte, _, _, _, ⟨_, rfl⟩, ?_, ?_, rfl⟩
    · rfl
    · simp [Slot.left]
  | samplePen =>
    refine ⟨.pen s.nextPen, _, _, _, ⟨_, rfl⟩, ?_, ?_, rfl⟩
    · rfl
    · cases s.nextPen <;> simp [Slot.left]

/-! ### The events of commands never mix (rules R76, R93, R333) -/

/-- No host write adds an event (rule R73). -/
theorem writeReg_log {v : Word} {s t : State} {r : HostReg} (h : s.writeReg v r = .next t) : t.log = s.log := by
  cases r with
  | cmd => rcases writeCmd_next_cases h with rfl | rfl | rfl | rfl | ⟨_, i, acts, rfl⟩ <;> rfl
  | calSel | calXfac | calYfac | calXoff | calYoff | calValid =>
    cases h
    rcases writeCal_cases _ s with hw | ⟨_, hw⟩ <;> rw [hw] <;> rfl
  | _ =>
    cases h
    rfl

/-- While BUSY is 1 no host write touches the latches or the sessions (rules R38, R39). -/
theorem writeReg_latches_of_busy {v : Word} {s t : State} {r : HostReg} (hbusy : s.busy = true)
    (h : s.writeReg v r = .next t) : t.cmdl = s.cmdl ∧ t.argl = s.argl ∧ t.sess = s.sess := by
  cases r with
  | cmd =>
    cases (writeCmd_busy hbusy v).symm.trans h
    exact ⟨rfl, rfl, rfl⟩
  | calSel | calXfac | calYfac | calXoff | calYoff | calValid =>
    cases (writeReg_cal_busy hbusy v rfl).symm.trans h
    exact ⟨rfl, rfl, rfl⟩
  | _ =>
    cases h
    exact ⟨rfl, rfl, rfl⟩

theorem HostPart.log {s u : State} (h : HostPart s u) : u.log = s.log := by
  rcases h with ⟨inputs, reads, rfl⟩ | ⟨off, v, tick, rest, r, _, _, hw⟩
  · rfl
  · exact writeReg_log (s := { s with inputs := rest }) hw

theorem HostPart.latches_of_busy {s u : State} (h : HostPart s u) (hbusy : s.busy = true) :
    u.cmdl = s.cmdl ∧ u.argl = s.argl ∧ u.sess = s.sess := by
  rcases h with ⟨inputs, reads, rfl⟩ | ⟨off, v, tick, rest, r, _, _, hw⟩
  · exact ⟨rfl, rfl, rfl⟩
  · exact writeReg_latches_of_busy (s := { s with inputs := rest }) hbusy hw

/-- What a block reset leaves: no command, and the log as it was (rule R311). -/
theorem accessInReset_blockReset {s t : State} {a : Option Access} (h : s.blockReset.accessInReset a = .next t) :
    t.engine = .idle ∧ t.log = s.log := by
  rcases accessInReset_cases _ t a h with rfl | ⟨off, v, rfl⟩ <;> exact ⟨rfl, rfl⟩

/-- A step without a reset input is the host's part, after which a running engine may take its step. -/
theorem step_parts_of_not_reset {s t : State} (hreset : ¬∃ a, s.inputs.head? = some (.reset a))
    (h : step s = .next t) : ∃ u, HostPart s u ∧ (t = u ∨ s.busy = true ∧ t = engineStep u) :=
  (step_parts h).resolve_left fun ⟨a, rest, hinputs, _⟩ => hreset ⟨a, by rw [hinputs]; rfl⟩

theorem step_of_reset {s t : State} (hreset : ∃ a, s.inputs.head? = some (.reset a)) (h : step s = .next t) :
    t.engine = .idle ∧ t.log = s.log := by
  obtain ⟨a, ha⟩ := hreset
  obtain ⟨rest, hinputs⟩ := List.head?_eq_some_iff.1 ha
  rw [step_reset hinputs] at h
  exact accessInReset_blockReset (s := { s with inputs := rest }) h

/-- Settles O29: a step is a block reset, or the host's part, which adds no event and leaves a running command alone,
and then at most one step of the engine. -/
theorem eventsOfCommandsNeverInterleave : Obligations.EventsOfCommandsNeverInterleave := by
  intro s t hstep
  by_cases hreset : ∃ a, s.inputs.head? = some (.reset a)
  · obtain ⟨hidle, hlog⟩ := step_of_reset hreset hstep
    exact ⟨fun _ => hlog, fun r _ => .inl ⟨hreset, hidle, hlog⟩⟩
  obtain ⟨u, hu, ht⟩ := step_parts_of_not_reset hreset hstep
  refine ⟨fun hidle => ?_, fun r hrun => .inr ?_⟩
  · rcases ht with rfl | ⟨hbusy, _⟩
    · exact hu.log
    · simp [hidle] at hbusy
  have hbusy := (State.busy_iff s).2 ⟨r, hrun⟩
  obtain ⟨hengine, _⟩ := hu.of_busy hbusy
  obtain ⟨hcmdl, hargl, hsess⟩ := hu.latches_of_busy hbusy
  rcases ht with rfl | ⟨_, rfl⟩
  · exact .inr ⟨hreset, hcmdl, hargl, .inl ⟨hengine.trans hrun, hu.log⟩⟩
  cases htodo : r.todo with
  | nil =>
    rw [engineStep_commit u r (hengine.trans hrun) htodo]
    obtain ⟨hlog, _⟩ := commit_frame r u
    exact .inl ⟨hreset, rfl, rfl, rfl, hlog.trans hu.log⟩
  | cons slot rest =>
    rw [engineStep_slot u r slot rest (hengine.trans hrun) htodo]
    obtain ⟨e, r', touch, pen, hmakes, hcmd, hleft, hperform⟩ := performSlot_event u r rest slot
    rw [hperform]
    refine .inr ⟨hreset, hcmdl, hargl, .inr ⟨slot, rest, r', e, rfl, rfl, hcmd, ?_, ?_, ?_⟩⟩
    · exact congrArg (· ++ [e]) hu.log
    · rw [hleft, hsess, Slot.left]
    · cases slot <;> exact hmakes

end Sys2Proof.Machine

/-! What a command's events can be, from the statements of its procedure: which commands drive the panel's reset line
and the backlight, and which leave the panel alone. -/

namespace Sys2Proof.Machine

/-! ### The procedure of each command (rule R38) -/

/-- The procedure acceptance starts for each command. -/
def procedureOf : Instr → State → List Act
  | .nop => nopActs
  | .beginPanel o bl => beginActs o bl
  | .setOrient o => setOrientActs o
  | .setWindow => setWindowActs
  | .stream => streamActs
  | .setPixel => setPixelActs
  | .fillArea => fillAreaActs
  | .clear => clearActs
  | .drawPoint sz ds => drawPointActs sz ds
  | .drawLine sz ls ds => drawLineActs sz ls ds
  | .drawRect sz ls fl ds => drawRectActs sz ls fl ds
  | .drawCircle sz fl ds => drawCircleActs sz fl ds
  | .touchRaw => touchRawActs
  | .touchAvg => touchAvgActs
  | .touchTwice => touchTwiceActs
  | .touchScan => touchScanActs
  | .map => mapActs

theorem exec_eq_accept_procedureOf (i : Instr) :
    exec i = accept i (fieldsLegal i) (needsReady i) (procedureOf i) := by
  cases i <;> rfl

/-- On an idle machine a command that passes both checks starts. -/
theorem exec_starts {s : State} {i : Instr} (hidle : s.busy = false) (hlegal : fieldsLegal i = true)
    (hready : needsReady i = true → s.status.ready = true) :
    exec i s = .next ((s.latch i).start i (procedureOf i (s.latch i))) := by
  rw [exec_eq_accept_procedureOf, hlegal]
  exact accept_starts i _ _ s hidle hready

/-- On an idle machine a command is rejected, which writes STATUS alone, or starts. -/
theorem exec_rejects_or_starts {s : State} (i : Instr) (hidle : s.busy = false) :
    (∃ st, exec i s = .next { s with status := st }) ∨
    exec i s = .next ((s.latch i).start i (procedureOf i (s.latch i))) := by
  cases hlegal : fieldsLegal i with
  | false => exact .inl ⟨_, exec_illegal hidle hlegal⟩
  | true =>
    by_cases hready : needsReady i = true → s.status.ready = true
    · exact .inr (exec_starts hidle hlegal hready)
    · obtain ⟨hneeds, hnot⟩ := Classical.not_imp.1 hready
      exact .inl ⟨_, exec_notReady hidle hlegal hneeds (Bool.not_eq_true _ ▸ hnot)⟩

/-! ### The events a procedure can make -/

/-- Every event the slot may make is in `Q`. -/
def Slot.makesOnly (Q : Event → Prop) (slot : Slot) : Prop := ∀ e, slot.mayMake e → Q e

/-- Every event the statement may make is in `Q`. -/
def Act.makesOnly (Q : Event → Prop) : Act → Prop
  | .ensure d => Q (.opened d (rateOf d))
  | .emit e => Q e
  | .wait t => Q (.wait t)
  | .receive => ∀ b, Q (.trx b)
  | .samplePen => ∀ l, Q (.pen l)
  | .finish => ∀ d, Q (.closed d)

/-- Every event the procedure may make is in `Q`. -/
def MakesOnly (Q : Event → Prop) (as : List Act) : Prop := ∀ a ∈ as, a.makesOnly Q

section MakesOnly

variable {Q Q' : Event → Prop} {as bs : List Act}

theorem Slot.makesOnly_emit {e : Event} : (Slot.emit e).makesOnly Q ↔ Q e :=
  ⟨fun h => h e rfl, fun h _ he => he ▸ h⟩

theorem Slot.makesOnly_receive : Slot.receive.makesOnly Q ↔ ∀ b, Q (.trx b) :=
  ⟨fun h b => h _ ⟨b, rfl⟩, fun h _ ⟨b, he⟩ => he ▸ h b⟩

theorem Slot.makesOnly_samplePen : Slot.samplePen.makesOnly Q ↔ ∀ l, Q (.pen l) :=
  ⟨fun h l => h _ ⟨l, rfl⟩, fun h _ ⟨l, he⟩ => he ▸ h l⟩

theorem MakesOnly.mono (h : MakesOnly Q as) (hQ : ∀ e, Q e → Q' e) : MakesOnly Q' as := by
  intro a ha
  have hact := h a ha
  cases a with
  | ensure d => exact hQ _ hact
  | emit e => exact hQ _ hact
  | wait t => exact hQ _ hact
  | receive => exact fun b => hQ _ (hact b)
  | samplePen => exact fun l => hQ _ (hact l)
  | finish => exact fun d => hQ _ (hact d)

theorem MakesOnly.nil : MakesOnly Q [] := by simp [MakesOnly]

theorem MakesOnly.cons {a : Act} (ha : a.makesOnly Q) (hb : MakesOnly Q bs) : MakesOnly Q (a :: bs) :=
  List.forall_mem_cons.2 ⟨ha, hb⟩

theorem MakesOnly.append (ha : MakesOnly Q as) (hb : MakesOnly Q bs) : MakesOnly Q (as ++ bs) :=
  List.forall_mem_append.2 ⟨ha, hb⟩

theorem MakesOnly.flatMap {α : Type} {f : α → List Act} (l : List α) (h : ∀ a ∈ l, MakesOnly Q (f a)) :
    MakesOnly Q (l.flatMap f) := by
  intro a ha
  obtain ⟨x, hx, hax⟩ := List.mem_flatMap.1 ha
  exact h x hx a hax

theorem MakesOnly.panelBytes {es : List Event} (hopen : Q (.opened .panel .fast)) (h : ∀ e ∈ es, Q e) :
    MakesOnly Q (panelBytes es) := .flatMap es fun e he => .cons hopen (.cons (h e he) .nil)

theorem closeSlots_makesOnly (hclose : ∀ d, Q (.closed d)) (σ : Sessions) :
    ∀ slot ∈ closeSlots σ, slot.makesOnly Q := by
  obtain ⟨panel, touch⟩ := σ
  cases panel <;> cases touch <;> simp [closeSlots, Slot.makesOnly_emit, hclose]

/-- The slots of a procedure make only the events its statements may make. -/
theorem MakesOnly.plan (h : MakesOnly Q as) : ∀ σ, ∀ slot ∈ Machine.plan σ as, slot.makesOnly Q := by
  induction as with
  | nil => simp [Machine.plan]
  | cons a as ih =>
    obtain ⟨hact, hrest⟩ := List.forall_mem_cons.1 h
    intro σ
    have hplan := ih hrest
    cases a with
    | ensure d =>
      refine List.forall_mem_append.2 ⟨?_, hplan _⟩
      cases hopen : σ.isOpen d
      · simpa [openSlots, hopen, Slot.makesOnly_emit, Act.makesOnly] using hact
      · simp [openSlots, hopen]
    | emit e => exact List.forall_mem_cons.2 ⟨Slot.makesOnly_emit.2 hact, hplan _⟩
    | wait t =>
      simp only [Machine.plan]
      split
      · exact hplan σ
      · exact List.forall_mem_cons.2 ⟨Slot.makesOnly_emit.2 hact, hplan σ⟩
    | receive => exact List.forall_mem_cons.2 ⟨Slot.makesOnly_receive.2 hact, hplan σ⟩
    | samplePen => exact List.forall_mem_cons.2 ⟨Slot.makesOnly_samplePen.2 hact, hplan σ⟩
    | finish => exact List.forall_mem_append.2 ⟨closeSlots_makesOnly hact σ, hplan _⟩

/-- Slots that draw nothing from outside are known events. -/
theorem exists_events_of_makesOnly (htrx : ∀ b, ¬Q (.trx b)) (hpen : ∀ l, ¬Q (.pen l)) (slots : List Slot)
    (h : ∀ slot ∈ slots, slot.makesOnly Q) : ∃ es : List Event, slots = es.map Slot.emit ∧ ∀ e ∈ es, Q e := by
  induction slots with
  | nil => exact ⟨[], rfl, by simp⟩
  | cons slot slots ih =>
    obtain ⟨hslot, hrest⟩ := List.forall_mem_cons.1 h
    obtain ⟨es, rfl, hes⟩ := ih hrest
    cases slot with
    | emit e => exact ⟨e :: es, rfl, List.forall_mem_cons.2 ⟨Slot.makesOnly_emit.1 hslot, hes⟩⟩
    | receive => exact absurd (Slot.makesOnly_receive.1 hslot 0) (htrx 0)
    | samplePen => exact absurd (Slot.makesOnly_samplePen.1 hslot .up) (hpen .up)

/-! ### A run of such events -/

/-- From `s` the machine has made only events in `Q`, runs the command `i`, and can make only such events. -/
def HasMade (Q : Event → Prop) (i : Instr) (s t : State) : Prop :=
  ∃ es r touch pen, (∀ e ∈ es, Q e) ∧ r.cmd = i ∧ (∀ slot ∈ r.todo, slot.makesOnly Q) ∧
    t = { s.afterEvents es with engine := .run r, touchIn := touch, penIn := pen }

theorem HasMade.performSlot (hclose : ∀ d, Q (.closed d)) {i : Instr} {s : State} (t : State) (r : Running)
    (slot : Slot) (rest : List Slot) (hrun : t.engine = .run r) (htodo : r.todo = slot :: rest)
    (h : HasMade Q i s t) : HasMade Q i s (t.performSlot r rest slot) := by
  obtain ⟨es, r', touch, pen, hes, hcmd, hslots, rfl⟩ := h
  obtain rfl : r' = r := by simpa using hrun
  obtain ⟨hslot, hrest⟩ := List.forall_mem_cons.1 (htodo ▸ hslots)
  obtain ⟨e, r'', touch', pen', hmakes, hcmd'', hleft, hperform⟩ := performSlot_event
    { s.afterEvents es with engine := .run r', touchIn := touch, penIn := pen } r' rest slot
  refine ⟨es ++ [e], r'', touch', pen', ?_, hcmd''.trans hcmd, ?_, ?_⟩
  · exact List.forall_mem_append.2 ⟨hes, by simpa using hslot e hmakes⟩
  · rw [hleft, Slot.left]
    split
    · exact closeSlots_makesOnly hclose _
    · exact hrest
  · rw [hperform, afterEvents_append]
    rfl

/-- A started command makes events its procedure may make, and commits. -/
theorem start_settle_makesOnly (hclose : ∀ d, Q (.closed d)) (s : State) (i : Instr) (h : MakesOnly Q as) :
    ∃ es r touch pen, (∀ e ∈ es, Q e) ∧ r.cmd = i ∧ (s.start i as).settle =
      commit r { s.afterEvents es with engine := .run r, touchIn := touch, penIn := pen } := by
  have hstart : HasMade Q i s (s.start i as) :=
    ⟨[], _, s.touchIn, s.penIn, by simp, rfl, h.plan s.sess, rfl⟩
  obtain ⟨t, r, hsettle, hrun, _, es, r', touch, pen, hes, hcmd, _, rfl⟩ :=
    settle_commits (HasMade.performSlot hclose) (State.start_engine i as s) hstart
  obtain rfl : r' = r := by simpa using hrun
  exact ⟨es, r', touch, pen, hes, hcmd, hsettle⟩

end MakesOnly

/-! ### The events that leave pins and panel alone (rules R83, R91) -/

/-- The event drives neither the panel's reset line nor the backlight. -/
def Event.keepsLevels (e : Event) : Prop := (∀ l, e ≠ .rst l) ∧ ∀ v, e ≠ .bl v

/-- The event drives no such line and is no panel byte. -/
def Event.isQuiet (e : Event) : Prop := e.keepsLevels ∧ ∀ dc b, e ≠ .ptx dc b

/-- The events inside a PANEL session and around it: sessions, panel bytes and waits. -/
def Event.isPanelTraffic : Event → Prop
  | .opened _ _ | .closed _ | .ptx _ _ | .wait _ => True
  | .rst _ | .ttx _ | .trx _ | .bl _ | .pen _ => False

theorem Event.isPanelTraffic.keepsLevels {e : Event} (h : e.isPanelTraffic) : e.keepsLevels := by
  cases e <;> simp_all [Event.isPanelTraffic, Event.keepsLevels]

theorem isPanelTraffic_of_isPanelByte {e : Event} (h : isPanelByte e = true) : e.isPanelTraffic := by
  cases e <;> simp_all [isPanelByte, Event.isPanelTraffic]

theorem keepsLevels_of_mem_waitEvents (t : Nat) : ∀ e ∈ waitEvents t, e.keepsLevels := by
  unfold waitEvents
  split <;> simp [Event.keepsLevels]

/-- PRST and the backlight hold their levels through events that do not drive them (rule R83). -/
theorem afterEvents_pins_of_keepsLevels (es : List Event) : ∀ s : State, (∀ e ∈ es, e.keepsLevels) →
    (s.afterEvents es).pins.prst = s.pins.prst ∧ (s.afterEvents es).pins.bl = s.pins.bl := by
  induction es with
  | nil => exact fun s _ => ⟨rfl, rfl⟩
  | cons e es ih =>
    intro s h
    obtain ⟨⟨hrst, hbl⟩, hes⟩ := List.forall_mem_cons.1 h
    obtain ⟨ihrst, ihbl⟩ := ih (s.performEvent e) hes
    refine ⟨ihrst.trans ?_, ihbl.trans ?_⟩
    · rcases Pins.after_prst s.draws e s.pins with ⟨l, hl, _⟩ | ⟨_, hkept⟩
      · exact absurd hl (hrst l)
      · exact hkept
    · rcases Pins.after_bl s.draws e s.pins with ⟨v, hv, _⟩ | ⟨_, hkept⟩
      · exact absurd hv (hbl v)
      · exact hkept

/-- Quiet events do nothing to the panel (rule R91). -/
theorem afterEvents_panel_of_isQuiet (es : List Event) : ∀ s : State, (∀ e ∈ es, e.isQuiet) →
    (s.afterEvents es).panel = s.panel := by
  induction es with
  | nil => exact fun s _ => rfl
  | cons e es ih =>
    intro s h
    obtain ⟨⟨⟨hrst, _⟩, hptx⟩, hes⟩ := List.forall_mem_cons.1 h
    exact (ih (s.performEvent e) hes).trans (Panel.after_other _ _ _ e _ hrst hptx)

theorem afterEvents_orient (s : State) (es : List Event) : (s.afterEvents es).orient = s.orient := by
  obtain ⟨log, sess, pins, panel, draws, h⟩ := afterEvents_frame es s
  rw [h]

/-! ### What the procedures make -/

/-- A procedure of panel bytes, waits and `finish()` makes panel traffic alone. -/
theorem panelTraffic_panelBytes {es : List Event} (h : ∀ e ∈ es, isPanelByte e = true) :
    MakesOnly Event.isPanelTraffic (panelBytes es) :=
  .panelBytes trivial fun e he => isPanelTraffic_of_isPanelByte (h e he)

theorem panelTraffic_wait (t : Nat) : MakesOnly Event.isPanelTraffic [.wait t] := .cons trivial .nil

theorem panelTraffic_finish : MakesOnly Event.isPanelTraffic [.finish] := .cons (fun _ => trivial) .nil

theorem panelTraffic_pCmd (r : Byte) : MakesOnly Event.isPanelTraffic (pCmd r) :=
  panelTraffic_panelBytes (es := [.ptx .command r]) (by simp [isPanelByte])

theorem panelTraffic_registerWrite (reg : Byte) (data : List Byte) :
    MakesOnly Event.isPanelTraffic (registerWrite reg data) := by
  rw [registerWrite_eq]
  exact panelTraffic_panelBytes (isPanelByte_registerEvents reg data)

theorem panelTraffic_orientWrites (c : Config) (o : Orientation) :
    MakesOnly Event.isPanelTraffic (orientWrites c o) := .flatMap _ fun w _ => panelTraffic_registerWrite w.reg w.data

theorem panelTraffic_initWrites (c : Config) : MakesOnly Event.isPanelTraffic (initWrites c) :=
  .flatMap _ fun e _ => (panelTraffic_registerWrite e.reg e.data).append (panelTraffic_wait e.postWait)

theorem panelTraffic_draw (c : Config) (o : Orientation) (ds : List Draw) :
    MakesOnly Event.isPanelTraffic (drawActs c o ds ++ [.finish]) := by
  rw [drawActs_eq]
  exact (panelTraffic_panelBytes (isPanelByte_drawEvents c o ds)).append panelTraffic_finish

theorem panelTraffic_setWindow (s : State) : MakesOnly Event.isPanelTraffic (setWindowActs s) := by
  refine MakesOnly.append ?_ panelTraffic_finish
  split
  · rw [pWindow_eq]
    exact panelTraffic_panelBytes (isPanelByte_windowEvents _ _ _ _ _)
  · exact .nil

theorem panelTraffic_stream (s : State) : MakesOnly Event.isPanelTraffic (streamActs s) := by
  refine MakesOnly.append ?_ panelTraffic_finish
  split
  · rw [pWords_eq]
    exact panelTraffic_panelBytes (isPanelByte_wordsEvents _ _)
  · exact .nil

theorem quiet_finish : MakesOnly Event.isQuiet [.finish] :=
  .cons (fun d => by simp [Event.isQuiet, Event.keepsLevels]) .nil

theorem quiet_rawRead (c : Config) : MakesOnly Event.isQuiet (rawRead c) := by
  simp [MakesOnly, rawRead, axisRead, Act.makesOnly, Event.isQuiet, Event.keepsLevels]

theorem quiet_avgActs (c : Config) (n : Nat) : MakesOnly Event.isQuiet (avgActs c n) := by
  have hwait : MakesOnly Event.isQuiet [.wait c.tInter] :=
    .cons (by simp [Act.makesOnly, Event.isQuiet, Event.keepsLevels]) .nil
  induction n using avgActs.induct with
  | case1 => exact .nil
  | case2 => exact quiet_rawRead c
  | case3 n ih => exact ((quiet_rawRead c).append hwait).append ih

theorem quiet_twiceActs (c : Config) : MakesOnly Event.isQuiet (twiceActs c) :=
  (quiet_avgActs c c.touchN).append (quiet_avgActs c c.touchN)

theorem quiet_touchScan (s : State) : MakesOnly Event.isQuiet (touchScanActs s) := by
  refine (MakesOnly.append ?_ (quiet_twiceActs s.cfg)).append quiet_finish
  split
  · exact .cons (fun l => by simp [Event.isQuiet, Event.keepsLevels]) .nil
  · exact .nil

/-- The commands that send the panel nothing: NOP, the touch commands and MAP (rules R140, R230, R260). -/
def SparesPanel (i : Instr) : Prop :=
  i ∈ ([.nop, .touchRaw, .touchAvg, .touchTwice, .touchScan, .map] : List Instr)

theorem quiet_procedureOf {i : Instr} (h : SparesPanel i) (s : State) :
    MakesOnly Event.isQuiet (procedureOf i s) := by
  cases i with
  | nop | map => exact quiet_finish
  | touchRaw => exact (quiet_rawRead _).append quiet_finish
  | touchAvg => exact (quiet_avgActs _ _).append quiet_finish
  | touchTwice => exact (quiet_twiceActs _).append quiet_finish
  | touchScan => exact quiet_touchScan s
  | _ => simp [SparesPanel] at h

/-- No command but BEGIN drives the reset line or the backlight (rule R294). -/
theorem keepsLevels_procedureOf {i : Instr} (h : ∀ o bl, i ≠ .beginPanel o bl) (s : State) :
    MakesOnly Event.keepsLevels (procedureOf i s) := by
  have hpanel {as : List Act} (has : MakesOnly Event.isPanelTraffic as) : MakesOnly Event.keepsLevels as :=
    has.mono fun _ => Event.isPanelTraffic.keepsLevels
  cases i with
  | nop | touchRaw | touchAvg | touchTwice | touchScan | map =>
    exact (quiet_procedureOf (by simp [SparesPanel]) s).mono fun e he => he.1
  | beginPanel o bl => exact absurd rfl (h o bl)
  | setOrient o => exact hpanel ((panelTraffic_orientWrites _ o).append panelTraffic_finish)
  | setWindow => exact hpanel (panelTraffic_setWindow s)
  | stream => exact hpanel (panelTraffic_stream s)
  | _ => exact hpanel (panelTraffic_draw _ _ _)

/-! ### The commands that leave the panel alone -/

/-- Only the commits of BEGIN and SET_ORIENT write the panel or ORIENT (rules R147, R150). -/
theorem commit_panel (r : Running) (s : State) (hbegin : ∀ o bl, r.cmd ≠ .beginPanel o bl)
    (horient : ∀ o, r.cmd ≠ .setOrient o) : (commit r s).panel = s.panel ∧ (commit r s).orient = s.orient := by
  obtain ⟨cmd, todo, rx, pen, ramwr⟩ := r
  cases cmd with
  | beginPanel o bl => exact absurd rfl (hbegin o bl)
  | setOrient o => exact absurd rfl (horient o)
  | stream =>
    simp only [commit, commitResults, commitStream]
    split <;> exact ⟨rfl, rfl⟩
  | touchScan =>
    simp only [commit, commitResults, commitTouchScan]
    split
    · exact ⟨State.commitXform_panel _ _, State.commitXform_orient _ _⟩
    · exact ⟨rfl, rfl⟩
  | map => exact ⟨State.commitXform_panel _ _, State.commitXform_orient _ _⟩
  | _ => exact ⟨rfl, rfl⟩

/-- Settles O48: such a command makes quiet events alone, and its commit writes neither the panel nor ORIENT. -/
theorem nonDrawingCommandsKeepThePanel : Obligations.NonDrawingCommandsKeepThePanel := by
  intro s i hrest hi
  obtain ⟨hidle, _⟩ := hrest
  obtain ⟨hlegal, hneeds, hbegin, horient⟩ : fieldsLegal i = true ∧ needsReady i = false ∧
      (∀ o bl, i ≠ .beginPanel o bl) ∧ ∀ o, i ≠ .setOrient o := by
    simp only [List.mem_cons, List.not_mem_nil, or_false] at hi
    rcases hi with rfl | rfl | rfl | rfl | rfl | rfl <;> simp [fieldsLegal, needsReady]
  refine ⟨_, exec_starts ((State.not_busy_iff s).2 hidle) hlegal (by simp [hneeds]), ?_⟩
  obtain ⟨es, r, touch, pen, hes, rfl, hsettle⟩ :=
    start_settle_makesOnly (by simp [Event.isQuiet, Event.keepsLevels]) (s.latch i) i (quiet_procedureOf hi (s.latch i))
  rw [hsettle]
  obtain ⟨hpanel, horient'⟩ := commit_panel r
    { (s.latch r.cmd).afterEvents es with engine := .run r, touchIn := touch, penIn := pen } hbegin horient
  exact ⟨hpanel.trans (afterEvents_panel_of_isQuiet es _ hes), horient'.trans (afterEvents_orient _ es)⟩

/-! ### The reset line and the backlight (rules R83, R149, R294) -/

/-- The events of BEGIN's reset pulse (rule R147). -/
def resetPulseEvents (c : Config) : List Event :=
  .rst .released :: waitEvents c.tRstPre ++ .rst .asserted :: waitEvents c.tRstHold ++
  .rst .released :: waitEvents c.tRstPost

theorem plan_wait (σ : Sessions) (t : Nat) (as : List Act) :
    plan σ (.wait t :: as) = (waitEvents t).map Slot.emit ++ plan σ as := by
  simp only [plan, waitEvents]
  split <;> rfl

theorem plan_emit (σ : Sessions) (e : Event) (as : List Act) :
    plan σ (.emit e :: as) = .emit e :: plan (σ.after e) as := rfl

theorem plan_resetPulse (c : Config) (σ : Sessions) : plan σ (resetPulse c) = (resetPulseEvents c).map Slot.emit := by
  have hnil (τ : Sessions) : plan τ [] = [] := rfl
  simp [resetPulse, resetPulseEvents, plan_wait, plan_emit, hnil]

/-- The reset pulse leaves PRST released: the waits after it keep the level. -/
theorem afterEvents_resetPulse_prst (c : Config) (s : State) :
    (s.afterEvents (resetPulseEvents c)).pins.prst = .released := by
  rw [resetPulseEvents, afterEvents_append, afterEvents_cons]
  exact (afterEvents_pins_of_keepsLevels _ _ (keepsLevels_of_mem_waitEvents c.tRstPost)).1

/-- What BEGIN's procedure sends between the reset pulse and the backlight (rules R147, R148, R149). -/
def beginTraffic (c : Config) (o : Orientation) : List Act :=
  initWrites c ++ orientWrites c o ++ [.wait c.tOrientSettle] ++ pCmd c.regSlpout ++ [.wait c.tSlpout] ++
  pCmd c.regDispon ++ [.wait c.tDispon] ++ [.finish]

theorem beginActs_eq (o : Orientation) (bl : Byte) (s : State) :
    beginActs o bl s = resetPulse s.cfg ++ beginTraffic s.cfg o ++ [.emit (.bl bl)] := by
  simp [beginActs, beginTraffic]

theorem panelTraffic_begin (c : Config) (o : Orientation) : MakesOnly Event.isPanelTraffic (beginTraffic c o) :=
  (((((((panelTraffic_initWrites c).append (panelTraffic_orientWrites c o)).append (panelTraffic_wait _)).append
    (panelTraffic_pCmd _)).append (panelTraffic_wait _)).append (panelTraffic_pCmd _)).append
    (panelTraffic_wait _)).append panelTraffic_finish

/-- BEGIN's events: the reset pulse, panel traffic, and the backlight last (rules R147, R149). -/
theorem plan_beginActs (o : Orientation) (bl : Byte) (s : State) (σ : Sessions) :
    ∃ es : List Event, plan σ (beginActs o bl s) = (resetPulseEvents s.cfg ++ es ++ [Event.bl bl]).map Slot.emit ∧
      ∀ e ∈ es, e.isPanelTraffic := by
  obtain ⟨es, hplan, hes⟩ := exists_events_of_makesOnly (fun _ h => h) (fun _ h => h) _
    ((panelTraffic_begin s.cfg o).plan (sessionsAt σ (resetPulse s.cfg)))
  refine ⟨es, ?_, hes⟩
  rw [beginActs_eq, plan_append, plan_append, plan_resetPulse, hplan]
  simp [plan]

/-- BEGIN leaves PRST released and the backlight at its level. -/
theorem begin_settle_pins (o : Orientation) (bl : Byte) (s : State) :
    (s.start (.beginPanel o bl) (beginActs o bl s)).settle.pins.prst = .released ∧
    (s.start (.beginPanel o bl) (beginActs o bl s)).settle.pins.bl = bl := by
  obtain ⟨es, hplan, hes⟩ := plan_beginActs o bl s s.sess
  rw [settle_emits _ _ _ rfl hplan]
  obtain ⟨_, _, hpins, _⟩ := commit_frame _ _
  rw [hpins, State.setEngine_pins, afterEvents_append, afterEvents_append]
  refine ⟨?_, rfl⟩
  exact (afterEvents_pins_of_keepsLevels es _ fun e he => (hes e he).keepsLevels).1.trans
    (afterEvents_resetPulse_prst s.cfg _)

/-- Settles O42: BEGIN's last RST and BL events give its levels; a rejected command makes no event, and every other one
only events that keep the levels. -/
theorem onlyBeginDrivesResetAndBacklight : Obligations.OnlyBeginDrivesResetAndBacklight := by
  intro s i hrest
  obtain ⟨hidle, _⟩ := hrest
  have hbusy := (State.not_busy_iff s).2 hidle
  by_cases hbegin : ∃ o bl, i = .beginPanel o bl
  · obtain ⟨o, bl, rfl⟩ := hbegin
    refine ⟨_, exec_starts hbusy rfl (by simp [needsReady]), ?_, fun h => absurd rfl (h o bl)⟩
    rintro _ _ ⟨rfl, rfl⟩
    exact begin_settle_pins o bl (s.latch (.beginPanel o bl))
  · have hnot : ∀ o bl, i ≠ .beginPanel o bl := fun o bl h => hbegin ⟨o, bl, h⟩
    rcases exec_rejects_or_starts i hbusy with ⟨st, hexec⟩ | hexec
    · refine ⟨_, hexec, fun o bl h => absurd h (hnot o bl), fun _ => ?_⟩
      rw [settle_idle { s with status := st } hidle]
      exact ⟨rfl, rfl, [], by simp, by simp⟩
    · refine ⟨_, hexec, fun o bl h => absurd h (hnot o bl), fun _ => ?_⟩
      obtain ⟨es, r, touch, pen, hes, _, hsettle⟩ := start_settle_makesOnly
        (by simp [Event.keepsLevels]) (s.latch i) i (keepsLevels_procedureOf hnot (s.latch i))
      rw [hsettle]
      obtain ⟨hlog, _, hpins, _⟩ := commit_frame r
        { (s.latch i).afterEvents es with engine := .run r, touchIn := touch, penIn := pen }
      obtain ⟨hprst, hbl⟩ := afterEvents_pins_of_keepsLevels es (s.latch i) hes
      exact ⟨(congrArg Pins.prst hpins).trans hprst, (congrArg Pins.bl hpins).trans hbl, es,
        hlog.trans (afterEvents_log es _), hes⟩

end Sys2Proof.Machine

/-! What the panel's memory holds after the commands that write it: the window, the words of a stream, and the drawing
steps one after the other. -/

namespace Sys2Proof.Machine

/-! ### The panel after a run of events -/

/-- The panel after these events, in order. -/
def Panel.afterAll (c : Config) (w h : Nat) (es : List Event) (p : Panel) : Panel :=
  es.foldl (fun q e => q.after c w h e) p

@[simp] theorem Panel.afterAll_nil (c : Config) (w h : Nat) (p : Panel) : p.afterAll c w h [] = p := rfl

@[simp] theorem Panel.afterAll_cons (c : Config) (w h : Nat) (e : Event) (es : List Event) (p : Panel) :
    p.afterAll c w h (e :: es) = (p.after c w h e).afterAll c w h es := rfl

@[simp] theorem Panel.afterAll_append (c : Config) (w h : Nat) (es fs : List Event) (p : Panel) :
    p.afterAll c w h (es ++ fs) = (p.afterAll c w h es).afterAll c w h fs := List.foldl_append

theorem afterEvents_panel_eq (s : State) (es : List Event) :
    (s.afterEvents es).panel = s.panel.afterAll s.cfg (width s.cfg s.orient) (height s.cfg s.orient) es :=
  afterEvents_panel es s

/-- The session around panel bytes does nothing to the panel. -/
theorem Panel.afterAll_panelSession (c : Config) (w h : Nat) (p : Panel) {es : List Event}
    (hes : ∀ e ∈ es, isPanelByte e = true) : p.afterAll c w h (panelSession es) = p.afterAll c w h es := by
  cases es with
  | nil => rfl
  | cons e es =>
    have hfirst := hes e List.mem_cons_self
    have hsession : panelSession (e :: es) = .opened .panel .fast :: (e :: es) ++ [.closed .panel] := by
      simp [panelSession, hfirst]
    rw [hsession, Panel.afterAll_append, Panel.afterAll_cons]
    rfl

/-- The panel once a command that sends panel bytes and finishes has settled. -/
theorem start_settle_panel {s : State} (hsess : s.sess = Sessions.closed) {i : Instr}
    (hbegin : ∀ o bl, i ≠ .beginPanel o bl) (horient : ∀ o, i ≠ .setOrient o) {es : List Event}
    (hes : ∀ e ∈ es, isPanelByte e = true) :
    (s.start i (panelBytes es ++ [.finish])).settle.panel =
      s.panel.afterAll s.cfg (width s.cfg s.orient) (height s.cfg s.orient) es := by
  have hplan : plan s.sess (panelBytes es ++ [.finish]) = (panelSession es).map Slot.emit := by
    rw [hsess, plan_panelBytes_finish es hes]
  rw [settle_emits _ _ _ (State.start_engine i _ s) hplan]
  refine (commit_panel _ _ hbegin horient).1.trans ?_
  rw [State.setEngine_panel, afterEvents_panel_eq]
  exact Panel.afterAll_panelSession _ _ _ _ hes

/-! ### A window (rules R87, R88, R144) -/

theorem Panel.steady_iff (p : Panel) : p.steady = true ↔ p.mode = .idle ∨ ∃ q, p.mode = .write q none := by
  cases hmode : p.mode with
  | write q high => cases high <;> simp [Panel.steady, hmode]
  | _ => simp [Panel.steady, hmode]

theorem panelBytesDistinct_iff (c : Config) : panelBytesDistinct c = true ↔
    c.regCaset ≠ c.regPaset ∧ c.regCaset ≠ c.regRamwr ∧ c.regPaset ≠ c.regRamwr := by
  simp [panelBytesDistinct, and_assoc]

/-- The two bytes of a word make the word again. -/
theorem highByte_append_lowByte (w : Half) : w.extractLsb' 8 8 ++ w.extractLsb' 0 8 = w := by
  rw [BitVec.extractLsb'_append_extractLsb'_eq_extractLsb' (by decide : 8 = 0 + 8)]
  exact BitVec.extractLsb'_eq_self

/-- CASET and its four bytes set XS and XE (rule R87). -/
theorem afterAll_caset (c : Config) (w h : Nat) {p : Panel} (hsteady : p.steady = true) (a b : Half) :
    p.afterAll c w h (.ptx .command c.regCaset :: (wordEvents a ++ wordEvents b)) =
      { p with xs := some a, xe := some b, mode := .idle } := by
  have hcommand : p.after c w h (.ptx .command c.regCaset) = { p with mode := .caset [] } := by
    simp [Panel.after, Panel.command, p.abandon_steady (p.steady_iff.1 hsteady)]
  rw [Panel.afterAll_cons, hcommand]
  simp [wordEvents, Panel.after, Panel.data, highByte_append_lowByte]

/-- PASET and its four bytes set YS and YE (rule R87). -/
theorem afterAll_paset {c : Config} (hdistinct : panelBytesDistinct c = true) (w h : Nat) {p : Panel}
    (hsteady : p.steady = true) (a b : Half) :
    p.afterAll c w h (.ptx .command c.regPaset :: (wordEvents a ++ wordEvents b)) =
      { p with ys := some a, ye := some b, mode := .idle } := by
  obtain ⟨hcp, _, _⟩ := (panelBytesDistinct_iff c).1 hdistinct
  have hcommand : p.after c w h (.ptx .command c.regPaset) = { p with mode := .paset [] } := by
    simp [Panel.after, Panel.command, p.abandon_steady (p.steady_iff.1 hsteady), hcp.symm]
  rw [Panel.afterAll_cons, hcommand]
  simp [wordEvents, Panel.after, Panel.data, highByte_append_lowByte]

theorem after_ramwr {c : Config} (hdistinct : panelBytesDistinct c = true) (w h : Nat) {p : Panel}
    (hsteady : p.steady = true) : p.after c w h (.ptx .command c.regRamwr) = p.beginWrite w h := by
  obtain ⟨_, hcr, hpr⟩ := (panelBytesDistinct_iff c).1 hdistinct
  simp [Panel.after, Panel.command, p.abandon_steady (p.steady_iff.1 hsteady), hcr.symm, hpr.symm]

/-- The panel with this window addressed and its write pointer at the window's first pixel (rule R88). -/
def Panel.withWindow (xs ys xe ye : Half) (p : Panel) : Panel :=
  { p with
    xs := some xs, xe := some xe, ys := some ys, ye := some ye
    mode := .write (some (xs.toNat, ys.toNat)) none }

/-- P_WINDOW of a window on the panel addresses it (rule R144). -/
theorem afterAll_windowEvents {c : Config} (hdistinct : panelBytesDistinct c = true) {w h : Nat} {p : Panel}
    (hsteady : p.steady = true) {x0 y0 x1 y1 : Int} (hx : (coord x0).toNat ≤ (coord x1).toNat)
    (hy : (coord y0).toNat ≤ (coord y1).toNat) (hw : (coord x1).toNat < w) (hh : (coord y1).toNat < h) :
    p.afterAll c w h (windowEvents c x0 y0 x1 y1) = p.withWindow (coord x0) (coord y0) (coord x1) (coord y1) := by
  rw [windowEvents, Panel.afterAll_append, Panel.afterAll_append, afterAll_caset c w h hsteady,
    afterAll_paset hdistinct w h rfl, Panel.afterAll_cons, Panel.afterAll_nil, after_ramwr hdistinct w h rfl]
  simp [Panel.beginWrite, Panel.windowStart, Panel.withWindow, hx, hy, hw, hh]

/-- A coordinate of the interface is sent as itself. -/
theorem toNat_coord {x : Nat} (hx : x < 65536) : (coord x).toNat = x := by
  simp [coord, Nat.mod_eq_of_lt hx]

theorem coord_toNat (v : Half) : coord v.toNat = v := BitVec.eq_of_toNat_eq (toNat_coord v.isLt)

theorem winOK_natCast_iff (c : Config) (o : Orientation) (x0 y0 x1 y1 : Nat) : winOK c o x0 y0 x1 y1 = true ↔
    x0 ≤ x1 ∧ x1 < width c o ∧ y0 ≤ y1 ∧ y1 < height c o := by
  simp [winOK, and_assoc]

/-- Settles O44: an accepted window is one P_WINDOW, a dropped one sends nothing. -/
theorem setWindowAddressesThePanel : Obligations.SetWindowAddressesThePanel := by
  intro s hrest hready hsteady hdistinct a
  obtain ⟨hidle, hsess⟩ := hrest
  refine ⟨_, exec_starts ((State.not_busy_iff s).2 hidle) rfl fun _ => hready, ?_⟩
  have hwin := winOK_natCast_iff s.cfg s.orient a.x0 a.y0 a.x1 a.y1
  have hsettle {es : List Event} (hes : ∀ e ∈ es, isPanelByte e = true) :=
    start_settle_panel (s := s.latch .setWindow) hsess (i := .setWindow) (by simp) (by simp) hes
  have hacts : procedureOf .setWindow (s.latch .setWindow) =
      (if winOK s.cfg s.orient a.x0 a.y0 a.x1 a.y1 then pWindow s.cfg a.x0 a.y0 a.x1 a.y1 else []) ++ [.finish] := rfl
  rw [hacts]
  split
  · next hok =>
    obtain ⟨hx, hw, hy, hh⟩ := hwin.1 hok
    rw [if_pos ⟨hx, hw, hy, hh⟩, pWindow_eq, hsettle (isPanelByte_windowEvents _ _ _ _ _)]
    refine (afterAll_windowEvents hdistinct hsteady ?_ ?_ ?_ ?_).trans ?_
    all_goals simp only [Args.x0, Args.y0, Args.x1, Args.y1, coord_toNat]
    · exact hx
    · exact hy
    · exact hw
    · exact hh
    · rfl
  · next hdropped =>
    rw [if_neg (fun h => hdropped (hwin.2 h))]
    exact hsettle (es := []) (by simp)

end Sys2Proof.Machine

/-! The words of a stream in the panel's memory: pixel by pixel through the open window, and the drawing steps that are
such runs of words. -/

namespace Sys2Proof.Machine

/-! ### The pixels of a window, in the order of its words (rule R89) -/

/-- The column of the window's `k`-th word. -/
def wordX (xs xe k : Nat) : Nat := xs + k % (xe - xs + 1)

/-- The row of the window's `k`-th word. -/
def wordY (xs xe ys k : Nat) : Nat := ys + k / (xe - xs + 1)

/-- The number of the window's pixels. -/
def windowSize (xs xe ys ye : Nat) : Nat := (xe - xs + 1) * (ye - ys + 1)

section Window

variable {xs xe ys ye : Nat}

theorem wordX_le (hx : xs ≤ xe) (k : Nat) : wordX xs xe k ≤ xe := by
  have hmod : k % (xe - xs + 1) < xe - xs + 1 := Nat.mod_lt k (Nat.succ_pos _)
  simp only [wordX]
  omega

theorem le_wordX (k : Nat) : xs ≤ wordX xs xe k := Nat.le_add_right _ _

theorem le_wordY (k : Nat) : ys ≤ wordY xs xe ys k := Nat.le_add_right _ _

/-- A word lies in the window's rows exactly when it is one of the window's words. -/
theorem wordY_le_iff (hy : ys ≤ ye) (k : Nat) : wordY xs xe ys k ≤ ye ↔ k < windowSize xs xe ys ye := by
  have hdiv : k / (xe - xs + 1) < ye - ys + 1 ↔ k < (ye - ys + 1) * (xe - xs + 1) :=
    Nat.div_lt_iff_lt_mul (Nat.succ_pos _)
  rw [windowSize, Nat.mul_comm, ← hdiv, wordY]
  omega

/-- After a word in the last column comes one in the first column of the next row. -/
theorem word_succ_of_last (hx : xs ≤ xe) {k : Nat} (hlast : xe < wordX xs xe k + 1) :
    wordX xs xe (k + 1) = xs ∧ wordY xs xe ys (k + 1) = wordY xs xe ys k + 1 := by
  have hmod : k % (xe - xs + 1) < xe - xs + 1 := Nat.mod_lt k (Nat.succ_pos _)
  have hsplit := Nat.mod_add_div k (xe - xs + 1)
  have hnext : k + 1 = (xe - xs + 1) * (k / (xe - xs + 1) + 1) := by
    rw [wordX] at hlast
    rw [Nat.mul_add]
    omega
  rw [wordX, wordY, hnext, Nat.mul_mod_right, Nat.mul_div_cancel_left _ (Nat.succ_pos _)]
  exact ⟨rfl, rfl⟩

/-- After any other word comes the next column of its row. -/
theorem word_succ_of_inside {k : Nat} (hinside : ¬xe < wordX xs xe k + 1) :
    wordX xs xe (k + 1) = wordX xs xe k + 1 ∧ wordY xs xe ys (k + 1) = wordY xs xe ys k := by
  have hsplit := Nat.mod_add_div k (xe - xs + 1)
  have hnext : k + 1 = k % (xe - xs + 1) + 1 + (xe - xs + 1) * (k / (xe - xs + 1)) := by omega
  have hlt : k % (xe - xs + 1) + 1 < xe - xs + 1 := by
    rw [wordX] at hinside
    omega
  have hmod : (k + 1) % (xe - xs + 1) = k % (xe - xs + 1) + 1 := by
    rw [hnext, Nat.add_mul_mod_self_left, Nat.mod_eq_of_lt hlt]
  have hdiv : (k + 1) / (xe - xs + 1) = k / (xe - xs + 1) := by
    rw [hnext, Nat.add_mul_div_left _ _ (Nat.succ_pos _), Nat.div_eq_of_lt hlt, Nat.zero_add]
  rw [wordX, wordY, hmod, hdiv]
  exact ⟨rfl, rfl⟩

/-- The write pointer goes from a word's pixel to the next word's (rule R89). -/
theorem advancePointer_word (hx : xs ≤ xe) (k : Nat) :
    advancePointer xs xe (wordX xs xe k, wordY xs xe ys k) = (wordX xs xe (k + 1), wordY xs xe ys (k + 1)) := by
  have hpointer (x y : Nat) : advancePointer xs xe (x, y) = if xe < x + 1 then (xs, y + 1) else (x + 1, y) := rfl
  rw [hpointer]
  split
  · next hlast =>
    obtain ⟨hX, hY⟩ := word_succ_of_last (ys := ys) hx hlast
    rw [hX, hY]
  · next hinside =>
    obtain ⟨hX, hY⟩ := word_succ_of_inside (ys := ys) hinside
    rw [hX, hY]

/-- Every pixel of the window is one of its words'. -/
theorem exists_word {x y : Nat} (hx : xs ≤ x) (hx' : x ≤ xe) (hy : ys ≤ y) (hy' : y ≤ ye) :
    ∃ k, k < windowSize xs xe ys ye ∧ wordX xs xe k = x ∧ wordY xs xe ys k = y := by
  have hlt : x - xs < xe - xs + 1 := by omega
  have hX : wordX xs xe (x - xs + (xe - xs + 1) * (y - ys)) = x := by
    rw [wordX, Nat.add_mul_mod_self_left, Nat.mod_eq_of_lt hlt]
    omega
  have hY : wordY xs xe ys (x - xs + (xe - xs + 1) * (y - ys)) = y := by
    rw [wordY, Nat.add_mul_div_left _ _ (Nat.succ_pos _), Nat.div_eq_of_lt hlt]
    omega
  exact ⟨_, (wordY_le_iff (hy.trans hy') _).1 (hY.symm ▸ hy'), hX, hY⟩

end Window

/-! ### A run of words in the memory -/

/-- `n` words of one colour, from the window's `k`-th pixel on. -/
def paintWords (xs xe ys : Nat) (colour : Half) (k : Nat) : Nat → Memory → Memory
  | 0, m => m
  | n + 1, m =>
    writePixel (paintWords xs xe ys colour k n m) (wordX xs xe (k + n)) (wordY xs xe ys (k + n)) colour

section Words

variable {xs xe ys ye : Nat} (colour : Half)

/-- A byte outside the words' pixels reads as before. -/
theorem read_paintWords_other (k n : Nat) (m : Memory) (a : Nat)
    (ha : ∀ j low, k ≤ j → j < k + n → a ≠ pixelAddr (wordX xs xe j) (wordY xs xe ys j) low) :
    Memory.read (paintWords xs xe ys colour k n m) a = Memory.read m a := by
  induction n with
  | zero => rfl
  | succ n ih =>
    rw [paintWords, read_writePixel_other _ _ _ _ _ fun low => ha (k + n) low (by omega) (by omega)]
    exact ih fun j low hk hj => ha j low hk (by omega)

/-- A pixel of the words reads their colour, whichever word wrote it last. -/
theorem readPixel_paintWords_word (hx : xs ≤ xe) (hwide : xe < 65536) (k n : Nat) (m : Memory) {j : Nat}
    (hk : k ≤ j) (hj : j < k + n) :
    readPixel (paintWords xs xe ys colour k n m) (wordX xs xe j) (wordY xs xe ys j) = some colour := by
  induction n with
  | zero => omega
  | succ n ih =>
    rw [paintWords]
    by_cases hsame : wordX xs xe j = wordX xs xe (k + n) ∧ wordY xs xe ys j = wordY xs xe ys (k + n)
    · obtain ⟨hX, hY⟩ := hsame
      rw [hX, hY, readPixel_writePixel_same]
    · have hne : j ≠ k + n := fun heq => hsame (heq ▸ ⟨rfl, rfl⟩)
      have hcol (i : Nat) : wordX xs xe i < 65536 := (wordX_le hx i).trans_lt hwide
      rw [readPixel_writePixel_other _ _ _ _ _ _ (hcol _) (hcol _) hsame]
      exact ih (by omega)

/-- A pixel of none of the words reads as before. -/
theorem readPixel_paintWords_other (hx : xs ≤ xe) (hwide : xe < 65536) (k n : Nat) (m : Memory) {x y : Nat}
    (hcol : x < 65536) (hne : ∀ j, k ≤ j → j < k + n → ¬(wordX xs xe j = x ∧ wordY xs xe ys j = y)) :
    readPixel (paintWords xs xe ys colour k n m) x y = readPixel m x y := by
  have hbyte (low : Bool) : Memory.read (paintWords xs xe ys colour k n m) (pixelAddr x y low) =
      Memory.read m (pixelAddr x y low) := by
    refine read_paintWords_other colour k n m _ fun j low' hk hj heq => hne j hk hj ?_
    obtain ⟨hX, hY, _⟩ := (pixelAddr_inj _ _ _ _ _ _ hcol ((wordX_le hx j).trans_lt hwide)).1 heq
    exact ⟨hX.symm, hY.symm⟩
  simp only [readPixel, hbyte]

end Words

/-! ### A run of words on the panel (rules R89, R90) -/

/-- The panel with this image and its write pointer at the window's `k`-th word. -/
def Panel.atWord (xs xe ys k : Nat) (img : Memory) (p : Panel) : Panel :=
  { p with img := img, mode := .write (some (wordX xs xe k, wordY xs xe ys k)) none }

theorem Panel.atWord_atWord (xs xe ys k k' : Nat) (img img' : Memory) (p : Panel) :
    (p.atWord xs xe ys k img).atWord xs xe ys k' img' = p.atWord xs xe ys k' img' := rfl

theorem wordsEvents_add (m n : Nat) (v : Half) : wordsEvents (m + n) v = wordsEvents m v ++ wordsEvents n v := by
  rw [wordsEvents, ← List.replicate_append_replicate, List.flatten_append]
  rfl

theorem wordsEvents_one (v : Half) : wordsEvents 1 v = wordEvents v := by simp [wordsEvents]

section Panel

variable {c : Config} {w h : Nat} {p : Panel} {xs xe ye : Half} (v : Half)

/-- The two bytes of a word, in mode WRITE with no half word. -/
theorem afterAll_wordEvents (q : Option (Nat × Nat)) (hmode : p.mode = .write q none) :
    p.afterAll c w h (wordEvents v) =
      Panel.word (v.extractLsb' 8 8) (v.extractLsb' 0 8) q
        { p with mode := .write q (some (v.extractLsb' 8 8)) } := by
  simp [wordEvents, Panel.after, Panel.data, hmode]

/-- One of the window's words is stored, and the pointer goes on. -/
theorem afterAll_wordEvents_inside (hxs : p.xs = some xs) (hxe : p.xe = some xe) (hye : p.ye = some ye)
    (hx : xs.toNat ≤ xe.toNat) {ys k : Nat}
    (hmode : p.mode = .write (some (wordX xs.toNat xe.toNat k, wordY xs.toNat xe.toNat ys k)) none)
    (hk : wordY xs.toNat xe.toNat ys k ≤ ye.toNat) :
    p.afterAll c w h (wordEvents v) = p.atWord xs.toNat xe.toNat ys (k + 1)
      (writePixel p.img (wordX xs.toNat xe.toNat k) (wordY xs.toNat xe.toNat ys k) v) := by
  rw [afterAll_wordEvents v _ hmode]
  simp [Panel.word, hxs, hxe, hye, Nat.not_lt.2 hk, highByte_append_lowByte, advancePointer_word hx, Panel.atWord]

/-- The window's words are stored one after the other. -/
theorem afterAll_wordsEvents_inside (hxs : p.xs = some xs) (hxe : p.xe = some xe) (hye : p.ye = some ye)
    (hx : xs.toNat ≤ xe.toNat) {ys : Nat} (hy : ys ≤ ye.toNat) {k : Nat}
    (hmode : p.mode = .write (some (wordX xs.toNat xe.toNat k, wordY xs.toNat xe.toNat ys k)) none) (n : Nat)
    (hn : k + n ≤ windowSize xs.toNat xe.toNat ys ye.toNat) :
    p.afterAll c w h (wordsEvents n v) =
      p.atWord xs.toNat xe.toNat ys (k + n) (paintWords xs.toNat xe.toNat ys v k n p.img) := by
  induction n with
  | zero =>
    obtain ⟨img, pxs, pxe, pys, pye, mode⟩ := p
    cases hmode
    rfl
  | succ n ih =>
    rw [wordsEvents_add, wordsEvents_one, Panel.afterAll_append, ih (by omega)]
    have hrow : wordY xs.toNat xe.toNat ys (k + n) ≤ ye.toNat := (wordY_le_iff hy _).2 (by omega)
    exact afterAll_wordEvents_inside v (p := p.atWord xs.toNat xe.toNat ys (k + n) _) hxs hxe hye hx rfl hrow

/-- A word past the window's last row makes the image unknown and leaves the pointer (rules R89, R90). -/
theorem afterAll_wordEvents_past (hxs : p.xs = some xs) (hxe : p.xe = some xe) (hye : p.ye = some ye)
    {q : Nat × Nat} (hmode : p.mode = .write (some q) none) (hq : ye.toNat < q.2) :
    p.afterAll c w h (wordEvents v) = p.forget := by
  rw [afterAll_wordEvents v _ hmode]
  obtain ⟨img, pxs, pxe, pys, pye, mode⟩ := p
  cases hmode
  simp_all [Panel.word, Panel.forget]

/-- After a word past the window's last row the image stays unknown. -/
theorem afterAll_wordsEvents_past (hxs : p.xs = some xs) (hxe : p.xe = some xe) (hye : p.ye = some ye)
    {q : Nat × Nat} (hmode : p.mode = .write (some q) none) (hq : ye.toNat < q.2) (n : Nat) :
    p.afterAll c w h (wordsEvents (n + 1) v) = p.forget := by
  induction n with
  | zero =>
    rw [wordsEvents_one]
    exact afterAll_wordEvents_past v hxs hxe hye hmode hq
  | succ n ih =>
    rw [wordsEvents_add (n + 1) 1, wordsEvents_one, Panel.afterAll_append, ih]
    exact afterAll_wordEvents_past (p := p.forget) v hxs hxe hye hmode hq

end Panel

/-! ### STREAM (rules R89, R156, R330) -/

/-- STREAM with an open window sends its words and finishes. -/
theorem stream_settle_panel {s : State} (hsess : s.sess = Sessions.closed) (hopen : s.status.winopen = true) :
    ((s.latch .stream).start .stream (procedureOf .stream (s.latch .stream))).settle.panel =
      s.panel.afterAll s.cfg (width s.cfg s.orient) (height s.cfg s.orient) (wordsEvents s.arg.count s.arg.fg) := by
  have hacts : procedureOf .stream (s.latch .stream) = panelBytes (wordsEvents s.arg.count s.arg.fg) ++ [.finish] := by
    simp [procedureOf, streamActs, hopen, pWords_eq]
  rw [hacts]
  exact start_settle_panel (s := s.latch .stream) hsess (by simp) (by simp) (isPanelByte_wordsEvents _ _)

/-- Settles O45: the words up to the window's end are stored in order, and the next one is past its last row. -/
theorem streamFillsTheOpenWindow : Obligations.StreamFillsTheOpenWindow := by
  intro s xs xe ys ye k0 hrest hready hopen hxs hxe hys hye hx hy w h n px py hk0 hmode
  obtain ⟨hidle, hsess⟩ := hrest
  refine ⟨_, exec_starts ((State.not_busy_iff s).2 hidle) rfl fun _ => hready, ?_⟩
  rw [stream_settle_panel hsess hopen]
  have hinside := afterAll_wordsEvents_inside (c := s.cfg) (w := width s.cfg s.orient) (h := height s.cfg s.orient)
    s.arg.fg hxs hxe hye hx hy (k := k0) hmode
  refine ⟨fun hfits => ?_, fun hover x y => ?_⟩
  · rw [hinside n hfits]
    exact ⟨rfl, fun k hk hk' => readPixel_paintWords_word s.arg.fg hx xe.isLt k0 n s.panel.img hk hk',
      fun a ha => read_paintWords_other s.arg.fg k0 n s.panel.img a fun j low hj hj' => ha j low hj hj'⟩
  · obtain ⟨extra, hcount⟩ : ∃ extra, s.arg.count = (w * h - k0) + (extra + 1) :=
      ⟨k0 + n - w * h - 1, show n = _ by omega⟩
    have hend : k0 + (w * h - k0) = windowSize xs.toNat xe.toNat ys.toNat ye.toNat := Nat.add_sub_cancel' hk0
    rw [hcount, wordsEvents_add, Panel.afterAll_append, hinside (w * h - k0) hend.le, hend,
      afterAll_wordsEvents_past s.arg.fg (p := s.panel.atWord _ _ _ _ _) hxs hxe hye rfl]
    · rfl
    · exact Nat.lt_of_not_le fun hle => Nat.lt_irrefl _ ((wordY_le_iff hy _).1 hle)

end Sys2Proof.Machine

/-! The drawing commands: each drawing step is one window full of one colour, and the steps paint over each other. -/

namespace Sys2Proof.Machine

/-! ### One pixel as a window of one word (rules R145, R146) -/

/-- The FILL that stores and sends the same as a drawing step. -/
def Draw.asFill : Draw → Draw
  | .pixel x y colour => .fill x y x y colour
  | .fill x0 y0 x1 y1 colour => .fill x0 y0 x1 y1 colour

@[simp] theorem Draw.asFill_colour (d : Draw) : d.asFill.colour = d.colour := by cases d <;> rfl

@[simp] theorem Draw.asFill_shown (c : Config) (o : Orientation) (d : Draw) : d.asFill.shown c o = d.shown c o := by
  cases d with
  | pixel x y colour => simp [Draw.asFill, Draw.shown, inBounds, winOK]
  | fill x0 y0 x1 y1 colour => rfl

@[simp] theorem Draw.asFill_events (c : Config) (o : Orientation) (d : Draw) : d.asFill.events c o = d.events c o := by
  have hshown := Draw.asFill_shown c o d
  cases d with
  | pixel x y colour =>
    simp only [Draw.events, hshown]
    simp [Draw.asFill, wordsEvents_one]
  | fill x0 y0 x1 y1 colour => rfl

@[simp] theorem Draw.asFill_covers (x y : Int) (d : Draw) : d.asFill.covers x y = d.covers x y := by
  cases d with
  | pixel px py colour =>
    rw [Bool.eq_iff_iff]
    simp only [Draw.asFill, Draw.covers, Bool.and_eq_true, decide_eq_true_eq]
    omega
  | fill x0 y0 x1 y1 colour => rfl

/-- The bytes of the FILL are bytes the step stores. -/
theorem Draw.stores_of_asFill {a : Nat} {d : Draw} (h : d.asFill.stores a) : d.stores a := by
  cases d with
  | pixel px py colour =>
    obtain ⟨x, y, low, hx, hx', hy, hy', ha⟩ := h
    refine ⟨low, ?_⟩
    rw [ha, show px.toNat = x by omega, show py.toNat = y by omega]
  | fill x0 y0 x1 y1 colour => exact h

/-! ### What drawing steps paint -/

theorem lastShown_append (c : Config) (o : Orientation) (x y : Int) (ds es : List Draw) :
    lastShown c o x y (ds ++ es) = (lastShown c o x y es).or (lastShown c o x y ds) := by
  simp [lastShown, List.find?_append]

theorem lastShown_singleton (c : Config) (o : Orientation) (x y : Int) (d : Draw) :
    lastShown c o x y [d] = if d.shown c o && d.covers x y then some d else none := by
  simp only [lastShown, List.reverse_singleton, List.find?_cons, List.find?_nil]
  split <;> simp_all

/-- From panel `p` to panel `q` these steps are painted, the last one on top, and no other byte changes; `q` is in no
unfinished word or list, as the next window needs it. -/
structure Paints (c : Config) (o : Orientation) (ds : List Draw) (p q : Panel) : Prop where
  steady : q.steady = true
  pixel : ∀ x y : Nat, x < 65536 →
    readPixel q.img x y = ((lastShown c o x y ds).map Draw.colour).or (readPixel p.img x y)
  frame : ∀ a, (∀ d ∈ ds, d.shown c o = true → ¬d.stores a) → Memory.read q.img a = Memory.read p.img a

section Paints

variable {c : Config} {o : Orientation} {p q r : Panel}

theorem Paints.nil (h : p.steady = true) : Paints c o [] p p := ⟨h, fun _ _ _ => rfl, fun _ _ => rfl⟩

theorem Paints.append {ds es : List Draw} (hpq : Paints c o ds p q) (hqr : Paints c o es q r) :
    Paints c o (ds ++ es) p r where
  steady := hqr.steady
  pixel x y hx := by
    rw [hqr.pixel x y hx, hpq.pixel x y hx, lastShown_append, ← Option.or_assoc]
    cases lastShown c o x y es <;> rfl
  frame a ha := by
    obtain ⟨hds, hes⟩ := List.forall_mem_append.1 ha
    exact (hqr.frame a hes).trans (hpq.frame a hds)

/-- A step that is not sent paints nothing. -/
theorem Paints.hidden {d : Draw} (hd : d.shown c o = false) (h : p.steady = true) : Paints c o [d] p p :=
  ⟨h, fun x y _ => by simp [lastShown_singleton, hd], fun _ _ => rfl⟩

/-- A step paints what the FILL in its place paints. -/
theorem Paints.of_asFill {d : Draw} (h : Paints c o [d.asFill] p q) : Paints c o [d] p q where
  steady := h.steady
  pixel x y hx := by
    rw [h.pixel x y hx, lastShown_singleton, lastShown_singleton, Draw.asFill_shown, Draw.asFill_covers]
    split <;> simp
  frame a ha := by
    refine h.frame a ?_
    simp only [List.mem_singleton, forall_eq, Draw.asFill_shown] at ha ⊢
    exact fun hshown hstores => ha hshown (Draw.stores_of_asFill hstores)

/-- A window on the panel full of words of one colour is a FILL (rule R146). -/
theorem paints_fill {x0 y0 x1 y1 : Nat} {colour : Half} (hok : winOK c o x0 y0 x1 y1 = true) (hx : x0 ≤ x1)
    (hy : y0 ≤ y1) (hwide : x1 < 65536) (hq : q.steady = true)
    (himg : q.img = paintWords x0 x1 y0 colour 0 (windowSize x0 x1 y0 y1) p.img) :
    Paints c o [.fill x0 y0 x1 y1 colour] p q where
  steady := hq
  pixel x y hcol := by
    rw [himg, lastShown_singleton]
    by_cases hcover : x0 ≤ x ∧ x ≤ x1 ∧ y0 ≤ y ∧ y ≤ y1
    · obtain ⟨hx0, hx1, hy0, hy1⟩ := hcover
      obtain ⟨k, hk, rfl, rfl⟩ := exists_word hx0 hx1 hy0 hy1
      rw [readPixel_paintWords_word colour hx hwide 0 _ _ (Nat.zero_le k) (by omega)]
      simp [Draw.shown, hok, Draw.covers, hx0, hx1, hy0, hy1, Draw.colour]
    · have hnone : (Draw.fill x0 y0 x1 y1 colour).covers x y = false := by
        rw [← Bool.not_eq_true]
        simpa [Draw.covers, and_assoc] using hcover
      rw [readPixel_paintWords_other colour hx hwide 0 _ _ hcol]
      · simp [hnone]
      · rintro j _ hj ⟨rfl, rfl⟩
        exact hcover ⟨le_wordX j, wordX_le hx j, le_wordY j, (wordY_le_iff hy j).2 (by omega)⟩
  frame a ha := by
    rw [himg]
    refine read_paintWords_other colour 0 _ _ a fun j low _ hj heq => ha _ List.mem_cons_self hok ?_
    refine ⟨wordX x0 x1 j, wordY x0 x1 y0 j, low, ?_, ?_, ?_, ?_, heq⟩ <;> rw [Nat.cast_le]
    · exact le_wordX j
    · exact wordX_le hx j
    · exact le_wordY j
    · exact (wordY_le_iff hy j).2 (by omega)

end Paints

/-! ### The drawing steps on the panel -/

/-- The panel has fewer columns and rows than the interface has coordinates (rule R9). -/
theorem dims_lt {c : Config} (h : c.wf = true) (o : Orientation) : width c o < 65536 ∧ height c o < 65536 := by
  simp only [Config.wf, Bool.and_eq_true, decide_eq_true_eq] at h
  simp only [width, height]
  split <;> omega

/-- A window on the panel has natural coordinates. -/
theorem exists_natCast_of_winOK {c : Config} {o : Orientation} {x0 y0 x1 y1 : Int}
    (h : winOK c o x0 y0 x1 y1 = true) : ∃ a b a' b' : Nat, x0 = a ∧ y0 = b ∧ x1 = a' ∧ y1 = b' := by
  simp only [winOK, Bool.and_eq_true, decide_eq_true_eq] at h
  exact ⟨x0.toNat, y0.toNat, x1.toNat, y1.toNat, by omega, by omega, by omega, by omega⟩

section Drawing

variable {c : Config} {o : Orientation} {p : Panel}

/-- A FILL on the panel paints its rectangle. -/
theorem paints_fill_events (hwf : c.wf = true) (hdistinct : panelBytesDistinct c = true) (hp : p.steady = true)
    {x0 y0 x1 y1 : Int} {colour : Half} (hok : winOK c o x0 y0 x1 y1 = true) :
    Paints c o [.fill x0 y0 x1 y1 colour] p
      (p.afterAll c (width c o) (height c o) (Draw.events c o (.fill x0 y0 x1 y1 colour))) := by
  obtain ⟨a, b, a', b', rfl, rfl, rfl, rfl⟩ := exists_natCast_of_winOK hok
  obtain ⟨hx, hw, hy, hh⟩ := (winOK_natCast_iff c o a b a' b').1 hok
  obtain ⟨hwidth, hheight⟩ := dims_lt hwf o
  have ha : (coord a).toNat = a := toNat_coord (by omega)
  have hb : (coord b).toNat = b := toNat_coord (by omega)
  have ha' : (coord a').toNat = a' := toNat_coord (by omega)
  have hb' : (coord b').toNat = b' := toNat_coord (by omega)
  have hwindow : p.afterAll c (width c o) (height c o) (windowEvents c a b a' b') =
      p.withWindow (coord a) (coord b) (coord a') (coord b') := by
    refine afterAll_windowEvents hdistinct hp ?_ ?_ ?_ ?_
    all_goals simp only [ha, hb, ha', hb', hx, hy, hw, hh]
  have hcount : (((a' : Int) - a + 1) * ((b' : Int) - b + 1)).toNat = windowSize a a' b b' := by
    rw [← Nat.cast_sub hx, ← Nat.cast_sub hy]
    exact Int.toNat_natCast _
  have hevents : Draw.events c o (.fill a b a' b' colour) =
      windowEvents c a b a' b' ++ wordsEvents (windowSize a a' b b') colour := by
    simp only [Draw.events, Draw.shown, hok, if_true, hcount]
  have hwords := afterAll_wordsEvents_inside (c := c) (w := width c o) (h := height c o) colour
    (p := p.withWindow (coord a) (coord b) (coord a') (coord b')) (xs := coord a) (xe := coord a') (ye := coord b')
    rfl rfl rfl (by rw [ha, ha']; exact hx) (ys := b) (by rw [hb']; exact hy) (k := 0)
    (by simp [Panel.withWindow, wordX, wordY, hb]) (windowSize a a' b b') (by rw [ha, ha', hb', Nat.zero_add])
  rw [hevents, Panel.afterAll_append, hwindow, hwords]
  refine paints_fill hok hx hy (by omega) rfl ?_
  rw [ha, ha']
  rfl

/-- A drawing step paints itself, or nothing when it is not on the panel. -/
theorem paints_draw (hwf : c.wf = true) (hdistinct : panelBytesDistinct c = true) (hp : p.steady = true) (d : Draw) :
    Paints c o [d] p (p.afterAll c (width c o) (height c o) (d.events c o)) := by
  cases hshown : d.shown c o with
  | false =>
    have hevents : d.events c o = [] := by simp [Draw.events, hshown]
    rw [hevents]
    exact .hidden hshown hp
  | true =>
    refine Paints.of_asFill ?_
    rw [← Draw.asFill_shown] at hshown
    rw [← Draw.asFill_events]
    cases d with
    | pixel x y colour => exact paints_fill_events hwf hdistinct hp hshown
    | fill x0 y0 x1 y1 colour => exact paints_fill_events hwf hdistinct hp hshown

/-- Drawing steps paint one after the other. -/
theorem paints_draws (hwf : c.wf = true) (hdistinct : panelBytesDistinct c = true) (hp : p.steady = true)
    (ds : List Draw) : Paints c o ds p (p.afterAll c (width c o) (height c o) (drawEvents c o ds)) := by
  induction ds generalizing p with
  | nil => exact .nil hp
  | cons d ds ih =>
    have hfirst := paints_draw (o := o) hwf hdistinct hp d
    have hevents : drawEvents c o (d :: ds) = d.events c o ++ drawEvents c o ds := rfl
    rw [hevents, Panel.afterAll_append]
    exact hfirst.append (ih hfirst.steady)

end Drawing

/-! ### The drawing commands -/

/-- A drawing command with a legal size passes the field check, and its procedure sends its drawing steps. -/
theorem procedureOf_of_drawSteps {s : State} {i : Instr} {ds : List Draw} (h : drawSteps s i = some ds) :
    fieldsLegal i = true ∧ (∀ o bl, i ≠ .beginPanel o bl) ∧ (∀ o, i ≠ .setOrient o) ∧
      procedureOf i (s.latch i) = panelBytes (drawEvents s.cfg s.orient ds) ++ [.finish] := by
  rw [← drawActs_eq]
  cases i with
  | setPixel | fillArea | clear =>
    cases h
    exact ⟨rfl, by simp, by simp, rfl⟩
  | drawPoint sz _ | drawLine sz _ _ | drawRect sz _ _ _ | drawCircle sz _ _ =>
    simp only [drawSteps, Option.ite_none_right_eq_some] at h
    obtain ⟨hlegal, hds⟩ := h
    cases hds
    exact ⟨hlegal, by simp, by simp, rfl⟩
  | _ => cases h

/-- Settles O46: the command's drawing steps are all it sends, and they paint one after the other. -/
theorem drawCommandsPaintTheirSteps : Obligations.DrawCommandsPaintTheirSteps := by
  intro s i ds hrest hready hwf hdistinct hsteady hds
  obtain ⟨hidle, hsess⟩ := hrest
  obtain ⟨hlegal, hbegin, horient, hacts⟩ := procedureOf_of_drawSteps hds
  refine ⟨_, exec_starts ((State.not_busy_iff s).2 hidle) hlegal fun _ => hready, ?_⟩
  rw [hacts, start_settle_panel (s := s.latch i) hsess hbegin horient (isPanelByte_drawEvents _ _ _)]
  have hpaints := paints_draws (o := s.orient) hwf hdistinct hsteady ds
  refine ⟨fun x y hx => (hpaints.pixel x y hx).trans ?_, hpaints.frame⟩
  cases lastShown s.cfg s.orient x y ds <;> rfl

end Sys2Proof.Machine

/-! The command word: what it means for a word to spell a row of the opcode map, that no two rows share a word, and
that encoder and decoder undo each other on what they accept. -/

namespace Sys2Proof

/-! ### Rows of the opcode map (rules R113, R114) -/

/-- The OP byte of a row (rule R114). -/
def Row.op (r : Row) : Byte := r.pattern.extractLsb' 0 8

/-- Every mask holds the whole OP byte, and outside it a row's pattern is 0 (rule R114). -/
theorem opcodeMap_masks : ∀ r ∈ opcodeMap, r.mask.extractLsb' 0 8 = 0xFF#8 ∧ r.pattern.extractLsb' 8 24 = 0#24 := by
  decide

/-- No two rows share an OP byte (rule R114). -/
theorem opcodeMap_nodup_op : (opcodeMap.map Row.op).Nodup := by decide

theorem row_eq_of_op {r r' : Row} (hr : r ∈ opcodeMap) (hr' : r' ∈ opcodeMap) (h : r.op = r'.op) : r = r' :=
  List.inj_on_of_nodup_map opcodeMap_nodup_op hr hr' h

/-- A word is its OP byte and the 24 bits above it. -/
theorem word_eq_iff (v w : Word) :
    v = w ↔ v.extractLsb' 0 8 = w.extractLsb' 0 8 ∧ v.extractLsb' 8 24 = w.extractLsb' 8 24 := by
  have split (u : Word) : u.extractLsb' 8 24 ++ u.extractLsb' 0 8 = u :=
    (BitVec.extractLsb'_append_extractLsb'_eq_extractLsb' rfl).trans BitVec.extractLsb'_eq_self
  refine ⟨fun h => h ▸ ⟨rfl, rfl⟩, fun ⟨hop, hrest⟩ => ?_⟩
  rw [← split v, ← split w, hop, hrest]

/-- A word spells a row when it has the row's OP byte and none of the row's reserved bits (rules R113, R114). -/
theorem spells_iff {r : Row} (hr : r ∈ opcodeMap) (v : Word) :
    r.spells v = true ↔ v.extractLsb' 0 8 = r.op ∧ v &&& (r.mask &&& 0xFFFFFF00) = 0 := by
  obtain ⟨hmask, hpattern⟩ := opcodeMap_masks r hr
  have hones8 (x : Byte) : x &&& 255#8 = x := BitVec.and_allOnes
  have hones24 (x : BitVec 24) : x &&& 16777215#24 = x := BitVec.and_allOnes
  simp [Row.spells, word_eq_iff, BitVec.extractLsb'_and, hmask, hpattern, hones8, hones24, Row.op]

/-- A part of the word that the row's mask fixes whole is the pattern's. -/
theorem extractLsb'_of_spells {r : Row} {v : Word} (h : r.spells v = true) {k n : Nat}
    (hmask : r.mask.extractLsb' k n = BitVec.allOnes n) : v.extractLsb' k n = r.pattern.extractLsb' k n := by
  have hpattern : v &&& r.mask = r.pattern := beq_iff_eq.1 h
  rw [← hpattern, BitVec.extractLsb'_and, hmask, BitVec.and_allOnes]

/-! ### The decoder's loop (rule R117) -/

theorem decodeRows_eq_none_iff (rs : List Row) (v : Word) :
    decodeRows rs v = none ↔ ∀ r ∈ rs, ¬ r.spells v = true := by
  induction rs with
  | nil => simp [decodeRows]
  | cons r rs ih => by_cases h : r.spells v = true <;> simp [decodeRows, h, ih]

theorem row_of_decodeRows {rs : List Row} {v : Word} {i : Instr} (h : decodeRows rs v = some i) :
    ∃ r ∈ rs, r.spells v = true ∧ r.build v = i := by
  induction rs with
  | nil => cases h
  | cons r rs ih =>
    by_cases hs : r.spells v = true
    · exact ⟨r, List.mem_cons_self .., hs, by simpa [decodeRows, hs] using h⟩
    · obtain ⟨r', hr', hspells⟩ := ih (by simpa [decodeRows, hs] using h)
      exact ⟨r', List.mem_cons_of_mem _ hr', hspells⟩

theorem row_of_decode {v : Word} {i : Instr} (h : decode v = .instr i) :
    ∃ r ∈ opcodeMap, r.spells v = true ∧ r.build v = i := by
  unfold decode at h
  split at h
  · next hd => exact row_of_decodeRows (hd.trans (congrArg some (Decoded.instr.inj h)))
  · cases h

/-- The row a word spells is the only one, so the loop finds it wherever it stands. -/
theorem decode_of_spells {r : Row} (hr : r ∈ opcodeMap) {v : Word} (h : r.spells v = true) :
    decode v = .instr (r.build v) := by
  cases hd : decodeRows opcodeMap v with
  | none => exact absurd h ((decodeRows_eq_none_iff _ _).1 hd r hr)
  | some i =>
    obtain ⟨r', hr', hspells, rfl⟩ := row_of_decodeRows hd
    have hop : r'.op = r.op := ((spells_iff hr' v).1 hspells).1.symm.trans ((spells_iff hr v).1 h).1
    rw [← row_eq_of_op hr' hr hop, decode, hd]

/-- A word is illegal when it spells no row. -/
theorem decode_illegal_iff (v : Word) (why : Illegal) : decode v = .illegal why ↔
    (∀ r ∈ opcodeMap, ¬ r.spells v = true) ∧ why = if opAssigned v then .reservedBit else .unassignedOp := by
  rw [← decodeRows_eq_none_iff, decode]
  split
  · next hd => simp [hd]
  · next hd => simp only [hd, Decoded.illegal.injEq, true_and, eq_comm]

theorem opAssigned_iff (v : Word) : opAssigned v = true ↔ ∃ r ∈ opcodeMap, v.extractLsb' 0 8 = r.op := by
  simp [opAssigned, Row.op]

/-- The OP bytes of no row (rule R118). -/
theorem opAssigned_eq_false_iff (v : Word) : opAssigned v = false ↔
    let op := (v.extractLsb' 0 8).toNat
    (0x08 ≤ op ∧ op ≤ 0x0F) ∨ (0x14 ≤ op ∧ op ≤ 0x1F) ∨ (0x24 ≤ op ∧ op ≤ 0x2F) ∨ 0x31 ≤ op := by
  unfold opAssigned
  generalize v.extractLsb' 0 8 = op
  simp only [opcodeMap, BitVec.ofNat_eq_ofNat, List.any_cons, BitVec.extractLsb'_zero, BitVec.reduceExtractLsb',
    List.any_nil, Bool.or_false, Bool.or_eq_false_iff, beq_eq_false_iff_ne, ne_eq, ← BitVec.toNat_inj,
    BitVec.toNat_ofNat, Nat.reducePow, Nat.zero_mod, Nat.one_mod, Nat.reduceMod]
  omega

theorem decode_unassignedOp_iff (v : Word) : decode v = .illegal .unassignedOp ↔ opAssigned v = false := by
  rw [decode_illegal_iff]
  constructor
  · rintro ⟨_, hwhy⟩
    split at hwhy
    · cases hwhy
    · next h => exact Bool.eq_false_of_not_eq_true h
  · refine fun h => ⟨fun r hr hs => ?_, by simp [h]⟩
    exact Bool.false_ne_true (h.symm.trans ((opAssigned_iff v).2 ⟨r, hr, ((spells_iff hr v).1 hs).1⟩))

/-! ### The fields of a word (rules R111, R115) -/

theorem extractLsb'_one_eq_ofBool (v : Word) (k : Nat) : v.extractLsb' k 1 = BitVec.ofBool (v.getLsbD k) := by
  refine BitVec.eq_of_getLsbD_eq fun i hi => ?_
  obtain rfl : i = 0 := by omega
  simp

@[simp] theorem bit_fieldLS (v : Word) : (fieldLS v).bit = v.extractLsb' 12 1 := by
  rw [extractLsb'_one_eq_ofBool, fieldLS]
  cases v.getLsbD 12 <;> rfl

@[simp] theorem bit_fieldFL (v : Word) : (fieldFL v).bit = v.extractLsb' 13 1 := by
  rw [extractLsb'_one_eq_ofBool, fieldFL]
  cases v.getLsbD 13 <;> rfl

@[simp] theorem bit_fieldDS (v : Word) : (fieldDS v).bit = v.extractLsb' 14 1 := by
  rw [extractLsb'_one_eq_ofBool, fieldDS]
  cases v.getLsbD 14 <;> rfl

@[simp] theorem sizeBits_fieldSZ (v : Word) : sizeBits (fieldSZ v) = v.extractLsb' 8 4 :=
  (BitVec.ofNat_toNat ..).trans (BitVec.setWidth_eq _)

theorem sizeFits_fieldSZ (v : Word) : sizeFits (fieldSZ v) = true := decide_eq_true (v.extractLsb' 8 4).isLt

theorem sizeBits_toNat {sz : Nat} (h : sizeFits sz = true) : (sizeBits sz).toNat = sz := by
  have hsz : sz < 16 := by simpa [sizeFits] using h
  simp [sizeBits, Nat.mod_eq_of_lt hsz]

theorem LineStyle.bit_injective : Function.Injective LineStyle.bit := by
  intro a b
  cases a <;> cases b <;> decide

theorem FillStyle.bit_injective : Function.Injective FillStyle.bit := by
  intro a b
  cases a <;> cases b <;> decide

theorem DotStyle.bit_injective : Function.Injective DotStyle.bit := by
  intro a b
  cases a <;> cases b <;> decide

/-! ### Decoding what was encoded (rules R111, R112, R115) -/

theorem fieldSZ_append (a : BitVec 20) (sz : BitVec 4) (op : Byte) : fieldSZ (a ++ sz ++ op) = sz.toNat := by
  rw [fieldSZ, BitVec.extractLsb'_append_eq_of_le (by decide), BitVec.extractLsb'_append_eq_right]

theorem fieldLS_append (a : BitVec 19) (ls : LineStyle) (sz : BitVec 4) (op : Byte) :
    fieldLS (a ++ ls.bit ++ sz ++ op) = ls := by
  apply LineStyle.bit_injective
  rw [bit_fieldLS, BitVec.extractLsb'_append_eq_of_le (by decide), BitVec.extractLsb'_append_eq_of_le (by decide),
    BitVec.extractLsb'_append_eq_right]

theorem fieldFL_append (a : BitVec 18) (fl : FillStyle) (b12 : BitVec 1) (sz : BitVec 4) (op : Byte) :
    fieldFL (a ++ fl.bit ++ b12 ++ sz ++ op) = fl := by
  apply FillStyle.bit_injective
  rw [bit_fieldFL, BitVec.extractLsb'_append_eq_of_le (by decide), BitVec.extractLsb'_append_eq_of_le (by decide),
    BitVec.extractLsb'_append_eq_of_le (by decide), BitVec.extractLsb'_append_eq_right]

theorem fieldDS_append (a : BitVec 17) (ds : DotStyle) (b13 b12 : BitVec 1) (sz : BitVec 4) (op : Byte) :
    fieldDS (a ++ ds.bit ++ b13 ++ b12 ++ sz ++ op) = ds := by
  apply DotStyle.bit_injective
  rw [bit_fieldDS, BitVec.extractLsb'_append_eq_of_le (by decide), BitVec.extractLsb'_append_eq_of_le (by decide),
    BitVec.extractLsb'_append_eq_of_le (by decide), BitVec.extractLsb'_append_eq_of_le (by decide),
    BitVec.extractLsb'_append_eq_right]

theorem fieldOR_append (a : BitVec 13) (o : Orientation) (b op : Byte) : fieldOR (a ++ o ++ b ++ op) = o := by
  rw [fieldOR, BitVec.extractLsb'_append_eq_of_le (by decide), BitVec.extractLsb'_append_eq_of_le (by decide),
    BitVec.extractLsb'_append_eq_right]

theorem fieldBL_append (bl : Byte) (a : BitVec 5) (o : Orientation) (b op : Byte) :
    fieldBL (bl ++ a ++ o ++ b ++ op) = bl := by
  rw [fieldBL, BitVec.extractLsb'_append_eq_of_le (by decide), BitVec.extractLsb'_append_eq_of_le (by decide),
    BitVec.extractLsb'_append_eq_of_le (by decide), BitVec.extractLsb'_append_eq_left]

theorem encode_spellsRow (i : Instr) : Laws.RowMatch.Statement i := by
  cases i with
  | nop => exact Laws.RowMatch.nop
  | beginPanel o bl => exact Laws.RowMatch.beginPanel o bl
  | setOrient o => exact Laws.RowMatch.setOrient o
  | setWindow => exact Laws.RowMatch.setWindow
  | stream => exact Laws.RowMatch.stream
  | setPixel => exact Laws.RowMatch.setPixel
  | fillArea => exact Laws.RowMatch.fillArea
  | clear => exact Laws.RowMatch.clear
  | drawPoint sz ds => exact Laws.RowMatch.drawPoint sz ds
  | drawLine sz ls ds => exact Laws.RowMatch.drawLine sz ls ds
  | drawRect sz ls fl ds => exact Laws.RowMatch.drawRect sz ls fl ds
  | drawCircle sz fl ds => exact Laws.RowMatch.drawCircle sz fl ds
  | touchRaw => exact Laws.RowMatch.touchRaw
  | touchAvg => exact Laws.RowMatch.touchAvg
  | touchTwice => exact Laws.RowMatch.touchTwice
  | touchScan => exact Laws.RowMatch.touchScan
  | map => exact Laws.RowMatch.map

/-- The row of a command's mnemonic reads the command back from its word. -/
theorem build_encode {i : Instr} (hwf : i.wellFormed = true) {r : Row} (hr : r ∈ opcodeMap)
    (hm : r.mnemonic = Laws.RowMatch.mnemonicOf i) : r.build (encode i) = i := by
  revert r
  cases i with
  | beginPanel o bl => simp [opcodeMap, Laws.RowMatch.mnemonicOf, encode, fieldOR_append, fieldBL_append]
  | setOrient o => simp [opcodeMap, Laws.RowMatch.mnemonicOf, encode, fieldOR_append]
  | drawPoint sz ds =>
    simp [opcodeMap, Laws.RowMatch.mnemonicOf, encode, fieldSZ_append, fieldDS_append, sizeBits_toNat hwf]
  | drawLine sz ls ds =>
    simp [opcodeMap, Laws.RowMatch.mnemonicOf, encode, fieldSZ_append, fieldLS_append, fieldDS_append,
      sizeBits_toNat hwf]
  | drawRect sz ls fl ds =>
    simp [opcodeMap, Laws.RowMatch.mnemonicOf, encode, fieldSZ_append, fieldLS_append, fieldFL_append,
      fieldDS_append, sizeBits_toNat hwf]
  | drawCircle sz fl ds =>
    simp [opcodeMap, Laws.RowMatch.mnemonicOf, encode, fieldSZ_append, fieldFL_append, fieldDS_append,
      sizeBits_toNat hwf]
  | _ => simp [opcodeMap, Laws.RowMatch.mnemonicOf]

/-- Settles O1: a command's word spells the row of its mnemonic, which no other row shares and whose fields read the
operands back. -/
theorem decodeEncodeRoundTrip : Obligations.DecodeEncodeRoundTrip := by
  intro i hwf
  obtain ⟨r, hr, hm, hspells⟩ := encode_spellsRow i hwf
  rw [decode_of_spells hr hspells, build_encode hwf hr hm]

/-! ### Encoding what was decoded (rules R113, R115) -/

theorem extractLsb'_append_below (v : Word) (k m n : Nat) :
    v.extractLsb' (k + n) m ++ v.extractLsb' k n = v.extractLsb' k (m + n) :=
  BitVec.extractLsb'_append_extractLsb'_eq_extractLsb' rfl

/-- A word is its parts in the layout of the drawing commands (rule R112). -/
theorem drawParts_append (v : Word) :
    v.extractLsb' 16 16 ++ v.extractLsb' 15 1 ++ v.extractLsb' 14 1 ++ v.extractLsb' 13 1 ++ v.extractLsb' 12 1 ++
      v.extractLsb' 8 4 ++ v.extractLsb' 0 8 = v := by
  rw [extractLsb'_append_below v 15 16 1, extractLsb'_append_below v 14 17 1, extractLsb'_append_below v 13 18 1,
    extractLsb'_append_below v 12 19 1, extractLsb'_append_below v 8 20 4, extractLsb'_append_below v 0 24 8]
  exact BitVec.extractLsb'_eq_self

/-- A word is its parts in the layout of BEGIN and SET_ORIENT (rule R112). -/
theorem panelParts_append (v : Word) :
    v.extractLsb' 24 8 ++ v.extractLsb' 19 5 ++ v.extractLsb' 16 3 ++ v.extractLsb' 8 8 ++ v.extractLsb' 0 8 = v := by
  rw [extractLsb'_append_below v 19 8 5, extractLsb'_append_below v 16 13 3, extractLsb'_append_below v 8 16 8,
    extractLsb'_append_below v 0 24 8]
  exact BitVec.extractLsb'_eq_self

/-- A row whose mask is the whole word is spelled by its pattern only. -/
theorem pattern_eq_of_spells {r : Row} {v : Word} (h : r.spells v = true) (hmask : r.mask = BitVec.allOnes 32) :
    r.pattern = v := by
  rw [← beq_iff_eq.1 h, hmask, BitVec.and_allOnes]

/-- A row's command is encoded as the word it was built from: the operands are the word's own parts, and the mask fixes
the others at the pattern's. -/
theorem encode_build (v : Word) : ∀ r ∈ opcodeMap, r.spells v = true → encode (r.build v) = v := by
  have hdraw := drawParts_append v
  have hpanel := panelParts_append v
  simp only [opcodeMap, List.forall_mem_cons, List.not_mem_nil, false_implies, implies_true, and_true]
  refine ⟨(pattern_eq_of_spells · rfl), fun hbegin => ?_, fun horient => ?_, (pattern_eq_of_spells · rfl),
    (pattern_eq_of_spells · rfl), (pattern_eq_of_spells · rfl), (pattern_eq_of_spells · rfl),
    (pattern_eq_of_spells · rfl), fun hpoint => ?_, fun hline => ?_, fun hrect => ?_, fun hcircle => ?_,
    (pattern_eq_of_spells · rfl), (pattern_eq_of_spells · rfl), (pattern_eq_of_spells · rfl),
    (pattern_eq_of_spells · rfl), (pattern_eq_of_spells · rfl)⟩
  · rwa [extractLsb'_of_spells hbegin (k := 19) rfl, extractLsb'_of_spells hbegin (k := 8) rfl,
      extractLsb'_of_spells hbegin (k := 0) rfl] at hpanel
  · rwa [extractLsb'_of_spells horient (k := 24) rfl, extractLsb'_of_spells horient (k := 19) rfl,
      extractLsb'_of_spells horient (k := 8) rfl, extractLsb'_of_spells horient (k := 0) rfl] at hpanel
  · rw [encode, bit_fieldDS, sizeBits_fieldSZ]
    rwa [extractLsb'_of_spells hpoint (k := 16) rfl, extractLsb'_of_spells hpoint (k := 15) rfl,
      extractLsb'_of_spells hpoint (k := 13) rfl, extractLsb'_of_spells hpoint (k := 12) rfl,
      extractLsb'_of_spells hpoint (k := 0) rfl] at hdraw
  · rw [encode, bit_fieldDS, bit_fieldLS, sizeBits_fieldSZ]
    rwa [extractLsb'_of_spells hline (k := 16) rfl, extractLsb'_of_spells hline (k := 15) rfl,
      extractLsb'_of_spells hline (k := 13) rfl, extractLsb'_of_spells hline (k := 0) rfl] at hdraw
  · rw [encode, bit_fieldDS, bit_fieldFL, bit_fieldLS, sizeBits_fieldSZ]
    rwa [extractLsb'_of_spells hrect (k := 16) rfl, extractLsb'_of_spells hrect (k := 15) rfl,
      extractLsb'_of_spells hrect (k := 0) rfl] at hdraw
  · rw [encode, bit_fieldDS, bit_fieldFL, sizeBits_fieldSZ]
    rwa [extractLsb'_of_spells hcircle (k := 16) rfl, extractLsb'_of_spells hcircle (k := 15) rfl,
      extractLsb'_of_spells hcircle (k := 12) rfl, extractLsb'_of_spells hcircle (k := 0) rfl] at hdraw

/-- A size read from a word has four bits. -/
theorem build_wellFormed (v : Word) : ∀ r ∈ opcodeMap, (r.build v).wellFormed = true := by
  simp [opcodeMap, Instr.wellFormed, sizeFits_fieldSZ]

/-- Settles O2: the word spells a row, which is read and written back part by part. -/
theorem encodeOfDecodedWord : Obligations.EncodeOfDecodedWord := by
  intro v i h
  obtain ⟨r, hr, hspells, rfl⟩ := row_of_decode h
  exact ⟨encode_build v r hr hspells, build_wellFormed v r hr⟩

end Sys2Proof

namespace Sys2Proof.Machine

/-! ### Illegal words (rules R38, R118) -/

theorem writeCmd_illegal {s : State} (h : s.busy = false) {v : Word} {why : Illegal} (hd : decode v = .illegal why) :
    s.writeCmd v = .next s.rejectIll := by
  simp [State.writeCmd, h, hd]

/-- Settles O3: a word that spells no row fails each row on the OP byte or on a reserved bit, and its CMD write is one
rejection. -/
theorem illegalWordsSetIllAndDone : Obligations.IllegalWordsSetIllAndDone := by
  refine ⟨fun v => ?spelling, fun v => ?ranges, fun s v why rest hinputs hidle hillegal => ?rejection⟩
  case spelling =>
    simp only [decode_illegal_iff, exists_and_left, exists_eq, and_true]
    refine forall₂_congr fun r hr => ?_
    rw [spells_iff hr, not_and]
    rfl
  case ranges => rw [decode_unassignedOp_iff, opAssigned_eq_false_iff]
  case rejection =>
    have hidle' : State.busy { s with inputs := rest } = false := hidle
    rw [step_access hinputs, access_write_eq _ v (r := .cmd) rfl, State.writeReg, writeCmd_illegal hidle' hillegal]
    rfl

/-! ### The worked encodings (rule R123) -/

/-- A command that assembles to a word's command decodes from that word. -/
theorem exists_assembled {mnemonic : String} {mods : List Modifier} {v : Word} (i : Instr)
    (hassemble : assemble mnemonic mods = some i) (hencode : encode i = v) (hwf : i.wellFormed = true) :
    ∃ i, assemble mnemonic mods = some i ∧ encode i = v ∧ decode v = .instr i :=
  ⟨i, hassemble, hencode, hencode ▸ decodeEncodeRoundTrip i hwf⟩

/-- Settles O4: each worked command is named, and the round trip decodes its word. -/
theorem workedEncodingsOfTheSpec : Obligations.WorkedEncodingsOfTheSpec := by
  have hsizeZero : decode 0x00000011 = .instr (.drawLine 0 .solid .anchored) :=
    decodeEncodeRoundTrip (.drawLine 0 .solid .anchored) rfl
  refine ⟨?assembled, ?illegal, hsizeZero, fun s hidle => ?rejected⟩
  case assembled =>
    simp only [List.forall_mem_cons, List.not_mem_nil, false_implies, implies_true, and_true]
    exact ⟨exists_assembled .nop rfl rfl rfl, exists_assembled (.beginPanel 5 200) rfl rfl rfl,
      exists_assembled (.setOrient 3) rfl rfl rfl, exists_assembled .clear rfl rfl rfl,
      exists_assembled (.drawPoint 2 .fillAround) rfl rfl rfl,
      exists_assembled (.drawLine 1 .solid .anchored) rfl rfl rfl,
      exists_assembled (.drawLine 3 .dotted .anchored) rfl rfl rfl,
      exists_assembled (.drawRect 1 .solid .filled .anchored) rfl rfl rfl,
      exists_assembled (.drawRect 8 .dotted .stroked .fillAround) rfl rfl rfl,
      exists_assembled (.drawCircle 1 .filled .anchored) rfl rfl rfl, exists_assembled .touchScan rfl rfl rfl,
      exists_assembled .map rfl rfl rfl⟩
  case illegal =>
    simp only [List.forall_mem_cons, List.not_mem_nil, false_implies, implies_true, and_true]
    exact ⟨⟨.reservedBit, by decide⟩, ⟨.reservedBit, by decide⟩, ⟨.reservedBit, by decide⟩,
      ⟨.unassignedOp, by decide⟩⟩
  case rejected => rw [writeCmd_instr hidle hsizeZero, exec_illegal hidle rfl]

end Sys2Proof.Machine

/-! The whole effect of the panel commands: what a command of known events leaves once it has committed, the one PANEL
session around BEGIN's bytes and waits, and each command's events from its procedure. -/

namespace Sys2Proof.Machine

/-! ### A command of known events, from acceptance to commit (rules R38, R40) -/

/-- The command `i` after its last event; the engine has noted whether one began a pixel write (rule R42). -/
def Running.finished (c : Config) (i : Instr) (es : List Event) : Running :=
  { cmd := i, todo := [], rx := [], pen := none, ramwr := beginsWrite c es }

/-- The state in which the command `i` commits after these events. -/
def State.finished (i : Instr) (es : List Event) (s : State) : State :=
  { s.completed i es with status := s.status, engine := .run (Running.finished s.cfg i es) }

theorem start_afterEvents (s : State) (i : Instr) (acts : List Act) (es : List Event) :
    (((s.latch i).start i acts).afterEvents es).setEngine (.run (Running.finished s.cfg i es)) =
      s.finished i es := by
  obtain ⟨log, sess, pins, panel, draws, hframe⟩ := afterEvents_frame es (s.latch i)
  rw [State.start, afterEvents_setEngine, State.finished, State.completed, hframe]
  rfl

/-- Events leave ENG, so a completed command leaves the machine as idle as it was. -/
theorem completed_setIdle {s : State} (hidle : s.engine = .idle) (i : Instr) (es : List Event) :
    { s.completed i es with engine := .idle } = s.completed i es := by
  obtain ⟨log, sess, pins, panel, draws, hframe⟩ := afterEvents_frame es (s.latch i)
  rw [State.completed, hframe, ← hidle]
  rfl

/-- A command whose slots are known events is accepted, makes them and commits. -/
theorem exec_commits {s : State} (hrest : s.atRest) {i : Instr} (hlegal : fieldsLegal i = true)
    (hready : needsReady i = true → s.status.ready = true) {es : List Event}
    (hplan : plan Sessions.closed (procedureOf i (s.latch i)) = es.map Slot.emit) :
    ∃ t, exec i s = .next t ∧ t.busy = true ∧
      t.settle = commit (Running.finished s.cfg i es) (s.finished i es) := by
  obtain ⟨hidle, hsess⟩ := hrest
  refine ⟨_, exec_starts ((State.not_busy_iff s).2 hidle) hlegal hready, rfl, ?_⟩
  rw [← hsess] at hplan
  rw [settle_emits es _ _ (State.start_engine i _ (s.latch i)) hplan, ← start_afterEvents s i]
  rfl

/-! ### Commits after known events (rules R40, R42) -/

/-- The commit of a command that writes no STATUS bit but WINOPEN. -/
theorem commit_finished_of_commitWindow {s : State} (hidle : s.engine = .idle) {i : Instr} {es : List Event}
    (hresults : commitResults (Running.finished s.cfg i es) = State.commitWindow (Running.finished s.cfg i es)) :
    commit (Running.finished s.cfg i es) (s.finished i es) =
      { s.completed i es with
        status := { s.status with winopen := s.status.winopen || beginsWrite s.cfg es, done := true } } := by
  rw [commit, hresults, ← completed_setIdle hidle]
  rfl

theorem commit_finished_nop {s : State} (hidle : s.engine = .idle) :
    commit (Running.finished s.cfg .nop []) (s.finished .nop []) = s.completed .nop [] := by
  rw [← completed_setIdle hidle]
  rfl

theorem commit_finished_begin {s : State} (hidle : s.engine = .idle) (o : Orientation) (bl : Byte) (es : List Event) :
    commit (Running.finished s.cfg (.beginPanel o bl) es) (s.finished (.beginPanel o bl) es) =
      { s.completed (.beginPanel o bl) es with
        orient := o
        status := { s.status with ready := true, dirty := true, winopen := false, done := true }
        panel := (s.completed (.beginPanel o bl) es).panel.forget } := by
  rw [← completed_setIdle hidle]
  rfl

theorem commit_finished_setOrient {s : State} (hidle : s.engine = .idle) (o : Orientation) (es : List Event) :
    commit (Running.finished s.cfg (.setOrient o) es) (s.finished (.setOrient o) es) =
      { s.completed (.setOrient o) es with
        orient := o
        status := { s.status with dirty := true, winopen := false, done := true }
        panel := (s.completed (.setOrient o) es).panel.forget } := by
  rw [← completed_setIdle hidle]
  rfl

/-- STREAM's commit with a window open: nothing but DONE. -/
theorem commit_finished_stream_open {s : State} (hidle : s.engine = .idle) (hopen : s.status.winopen = true)
    (es : List Event) :
    commit (Running.finished s.cfg .stream es) (s.finished .stream es) = s.completed .stream es := by
  have hresults : commitResults (Running.finished s.cfg .stream es) (s.finished .stream es) =
      s.finished .stream es := if_pos hopen
  rw [commit, hresults, ← completed_setIdle hidle]
  rfl

/-- STREAM's commit without a window: ESEQ and DONE (rule R282). -/
theorem commit_finished_stream_closed {s : State} (hidle : s.engine = .idle) (hclosed : ¬s.status.winopen = true)
    (es : List Event) :
    commit (Running.finished s.cfg .stream es) (s.finished .stream es) =
      { s.completed .stream es with status := { s.status with eseq := true, done := true } } := by
  have hresults : commitResults (Running.finished s.cfg .stream es) (s.finished .stream es) =
      { s.finished .stream es with status := { s.status with eseq := true } } := if_neg hclosed
  rw [commit, hresults, ← completed_setIdle hidle]
  rfl

theorem commit_finished_clear {s : State} (hidle : s.engine = .idle) (es : List Event) :
    commit (Running.finished s.cfg .clear es) (s.finished .clear es) =
      { s.completed .clear es with
        status := { s.status with
          dirty := false, winopen := s.status.winopen || beginsWrite s.cfg es, done := true } } := by
  rw [← completed_setIdle hidle]
  rfl

/-! ### Bytes and waits in one PANEL session (rules R77, R80, R141) -/

/-- These events with the OPEN that the first panel byte among them needs, if no PANEL session is open yet. -/
def openFirst : Bool → List Event → List Event
  | true, es => es
  | false, [] => []
  | false, e :: es => if isPanelByte e then .opened .panel .fast :: e :: es else e :: openFirst false es

@[simp] theorem openFirst_true (es : List Event) : openFirst true es = es := by rw [openFirst]

theorem openFirst_byte {e : Event} (h : isPanelByte e = true) (es : List Event) :
    openFirst false (e :: es) = .opened .panel .fast :: e :: es := if_pos h

theorem openFirst_other {e : Event} (h : isPanelByte e = false) (es : List Event) :
    openFirst false (e :: es) = e :: openFirst false es := if_neg (Bool.not_eq_true _ ▸ h)

theorem openFirst_append (isOpen : Bool) (es fs : List Event) : openFirst isOpen (es ++ fs) =
    openFirst isOpen es ++ openFirst (isOpen || es.any isPanelByte) fs := by
  cases isOpen with
  | true => simp
  | false =>
    induction es with
    | nil => rfl
    | cons e es ih =>
      cases hbyte : isPanelByte e with
      | true => simp [openFirst_byte hbyte, hbyte]
      | false => simpa [openFirst_other hbyte, hbyte] using ih

/-- A session is the OPEN the first panel byte needs, and a CLOSE if there was one. -/
theorem panelSession_eq (es : List Event) :
    panelSession es = openFirst false es ++ if es.any isPanelByte then [.closed .panel] else [] := by
  induction es with
  | nil => rfl
  | cons e es ih =>
    unfold panelSession at ih ⊢
    cases hbyte : isPanelByte e with
    | true => simp [openFirst_byte hbyte, hbyte]
    | false =>
      rw [openFirst_other hbyte, List.cons_append, List.any_cons, hbyte, Bool.false_or, ← ih]
      split <;> simp [hbyte]

/-- The statements send these events, after OPEN where the first panel byte needs it, and open no other session. -/
def Sends (as : List Act) (es : List Event) : Prop :=
  ∀ isOpen, plan ⟨isOpen, false⟩ as = (openFirst isOpen es).map Slot.emit ∧
    sessionsAt ⟨isOpen, false⟩ as = ⟨isOpen || es.any isPanelByte, false⟩

theorem Sends.nil : Sends [] [] := fun isOpen => by cases isOpen <;> exact ⟨rfl, rfl⟩

theorem Sends.append {as bs : List Act} {es fs : List Event} (ha : Sends as es) (hb : Sends bs fs) :
    Sends (as ++ bs) (es ++ fs) := by
  intro isOpen
  obtain ⟨hplan, hsess⟩ := ha isOpen
  obtain ⟨hplan', hsess'⟩ := hb (isOpen || es.any isPanelByte)
  rw [plan_append, sessionsAt_append, hsess, hplan, hplan', hsess', openFirst_append, List.map_append,
    List.any_append, Bool.or_assoc]
  exact ⟨rfl, rfl⟩

theorem Sends.flatMap {α : Type} {f : α → List Act} {g : α → List Event} (l : List α)
    (h : ∀ a ∈ l, Sends (f a) (g a)) : Sends (l.flatMap f) (l.flatMap g) := by
  induction l with
  | nil => exact .nil
  | cons a l ih =>
    obtain ⟨hfirst, hrest⟩ := List.forall_mem_cons.1 h
    exact hfirst.append (ih hrest)

theorem sends_wait (t : Nat) : Sends [.wait t] (waitEvents t) := by
  intro isOpen
  simp only [plan, sessionsAt, waitEvents]
  cases isOpen <;> split <;> exact ⟨rfl, rfl⟩

theorem sends_rst (l : Level) : Sends [.emit (.rst l)] [.rst l] := fun isOpen => by cases isOpen <;> exact ⟨rfl, rfl⟩

theorem sends_ptx (dc : Strobe) (b : Byte) : Sends [.ensure .panel, .emit (.ptx dc b)] [.ptx dc b] :=
  fun isOpen => by cases isOpen <;> exact ⟨rfl, rfl⟩

theorem sends_registerWrite (reg : Byte) (data : List Byte) :
    Sends (registerWrite reg data) (registerEvents reg data) := by
  rw [registerEvents, List.map_eq_flatMap]
  exact (sends_ptx .command reg).append (.flatMap data fun b _ => sends_ptx .data b)

theorem sends_orientWrites (c : Config) (o : Orientation) :
    Sends (orientWrites c o) ((entry c.orientRegs o).flatMap fun w => registerEvents w.reg w.data) :=
  .flatMap _ fun w _ => sends_registerWrite w.reg w.data

theorem sends_initWrites (c : Config) :
    Sends (initWrites c) (c.initTable.flatMap fun e => registerEvents e.reg e.data ++ waitEvents e.postWait) :=
  .flatMap _ fun e _ => (sends_registerWrite e.reg e.data).append (sends_wait e.postWait)

theorem sends_resetPulse (c : Config) : Sends (resetPulse c) (resetPulseEvents c) :=
  (((sends_rst .released).append (sends_wait c.tRstPre)).append
    ((sends_rst .asserted).append (sends_wait c.tRstHold))).append
    ((sends_rst .released).append (sends_wait c.tRstPost))

/-- What is sent and then finished is one PANEL session, or none (rule R77). -/
theorem Sends.plan_finish {as : List Act} {es : List Event} (h : Sends as es) :
    plan Sessions.closed (as ++ [.finish]) = (panelSession es).map Slot.emit := by
  obtain ⟨hplan, hsess⟩ := h false
  rw [plan_append, Sessions.closed, hplan, hsess, panelSession_eq, List.map_append]
  cases es.any isPanelByte <;> rfl

/-! ### NOP, BEGIN and SET_ORIENT (rules R140, R147, R150) -/

/-- Settles O9: NOP's procedure is `finish()` alone, with nothing to close. -/
theorem nopCompletes : Obligations.NopCompletes := by
  intro s hrest
  rw [← commit_finished_nop hrest.1]
  exact exec_commits hrest rfl (by simp [needsReady]) rfl

/-- BEGIN's waits and commands after the tables: sleep-out and display-on (rule R147). -/
def wakeActs (c : Config) : List Act :=
  [.wait c.tOrientSettle] ++ (pCmd c.regSlpout ++ [.wait c.tSlpout]) ++ (pCmd c.regDispon ++ [.wait c.tDispon])

/-- The events of `wakeActs`. -/
def wakeEvents (c : Config) : List Event :=
  waitEvents c.tOrientSettle ++ .ptx .command c.regSlpout :: waitEvents c.tSlpout ++
  .ptx .command c.regDispon :: waitEvents c.tDispon

theorem sends_wakeActs (c : Config) : Sends (wakeActs c) (wakeEvents c) :=
  ((sends_wait c.tOrientSettle).append ((sends_ptx .command c.regSlpout).append (sends_wait c.tSlpout))).append
    ((sends_ptx .command c.regDispon).append (sends_wait c.tDispon))

/-- The events of BEGIN's session: the reset pulse, the init table, the orientation registers and the wake-up (rules
R147, R148). -/
def beginEvents (c : Config) (o : Orientation) : List Event :=
  resetPulseEvents c ++ (c.initTable.flatMap fun e => registerEvents e.reg e.data ++ waitEvents e.postWait) ++
  ((entry c.orientRegs o).flatMap fun w => registerEvents w.reg w.data) ++ wakeEvents c

/-- BEGIN makes one session of its events, then the backlight (rule R149). -/
theorem plan_begin (o : Orientation) (bl : Byte) (s : State) : plan Sessions.closed (beginActs o bl s) =
    (panelSession (beginEvents s.cfg o) ++ [Event.bl bl]).map Slot.emit := by
  have hacts : beginActs o bl s =
      (resetPulse s.cfg ++ initWrites s.cfg ++ orientWrites s.cfg o ++ wakeActs s.cfg) ++ [.finish] ++
        [.emit (.bl bl)] := by
    simp [beginActs, wakeActs]
  have hsends := (((sends_resetPulse s.cfg).append (sends_initWrites s.cfg)).append
    (sends_orientWrites s.cfg o)).append (sends_wakeActs s.cfg)
  rw [hacts, plan_append, hsends.plan_finish, List.map_append]
  rfl

/-- Settles O10: the session of the whole sequence and the backlight after it, then BEGIN's commit. -/
theorem beginCompletes : Obligations.BeginCompletes := by
  intro s o bl hrest c pulse table direction wake u
  obtain ⟨t, hexec, hbusy, hsettle⟩ :=
    exec_commits hrest (i := .beginPanel o bl) rfl (by simp [needsReady]) (plan_begin o bl _)
  exact ⟨t, hexec, hbusy, hsettle.trans (commit_finished_begin hrest.1 o bl _)⟩

/-- Settles O11: the orientation registers are one session, then SET_ORIENT's commit. -/
theorem setOrientCompletes : Obligations.SetOrientCompletes := by
  intro s o hrest hready direction u
  obtain ⟨t, hexec, hbusy, hsettle⟩ := exec_commits hrest (i := .setOrient o) rfl (fun _ => hready)
    (sends_orientWrites s.cfg o).plan_finish
  exact ⟨t, hexec, hbusy, hsettle.trans (commit_finished_setOrient hrest.1 o _)⟩

/-! ### STREAM (rules R156, R282) -/

/-- Settles O13: the words are one session; without a window there is nothing to send, and the commit raises ESEQ. -/
theorem streamCompletes : Obligations.StreamCompletes := by
  intro s hrest hready
  by_cases hopen : s.status.winopen = true
  · have hacts : procedureOf .stream (s.latch .stream) =
        panelBytes (wordsEvents s.arg.count s.arg.fg) ++ [.finish] := by
      simp [procedureOf, streamActs, hopen, pWords_eq]
    have hplan := plan_panelBytes_finish _ (isPanelByte_wordsEvents s.arg.count s.arg.fg)
    rw [if_pos hopen, ← commit_finished_stream_open hrest.1 hopen]
    exact exec_commits hrest rfl (fun _ => hready) (hacts ▸ hplan)
  · have hacts : procedureOf .stream (s.latch .stream) = [.finish] := by simp [procedureOf, streamActs, hopen]
    rw [if_neg hopen, ← commit_finished_stream_closed hrest.1 hopen]
    exact exec_commits hrest rfl (fun _ => hready) (hacts ▸ rfl)

/-! ### The commands that send one window or nothing (rules R144, R145, R146) -/

/-- The session around panel bytes begins no pixel write of its own. -/
theorem beginsWrite_panelSession (c : Config) {es : List Event} (hes : ∀ e ∈ es, isPanelByte e = true) :
    beginsWrite c (panelSession es) = beginsWrite c es := by
  cases es with
  | nil => rfl
  | cons e es =>
    rw [Bool.eq_iff_iff]
    simp [panelSession, beginsWrite, hes e List.mem_cons_self]

/-- P_WINDOW ends with REG_RAMWR. -/
theorem beginsWrite_windowEvents (c : Config) (x0 y0 x1 y1 : Int) (es : List Event) :
    beginsWrite c (windowEvents c x0 y0 x1 y1 ++ es) = true := by
  simp [beginsWrite, windowEvents]

/-- A command that sends one window and some bytes into it where `P` holds, and else nothing, and whose commit is
WINOPEN. -/
theorem exec_window_completes {s : State} (hrest : s.atRest) (hready : s.status.ready = true) {i : Instr}
    (hlegal : fieldsLegal i = true) (hresults : ∀ fs,
      commitResults (Running.finished s.cfg i fs) = State.commitWindow (Running.finished s.cfg i fs))
    {P : Prop} [Decidable P] {x0 y0 x1 y1 : Int} {es : List Event} (hes : ∀ e ∈ es, isPanelByte e = true)
    (hsent : P → procedureOf i (s.latch i) = panelBytes (windowEvents s.cfg x0 y0 x1 y1 ++ es) ++ [.finish])
    (hdropped : ¬P → procedureOf i (s.latch i) = [.finish]) :
    ∃ t, exec i s = .next t ∧ t.busy = true ∧
      t.settle =
        if P then
          { s.completed i (panelSession (windowEvents s.cfg x0 y0 x1 y1 ++ es)) with
            status := { s.status with winopen := true, done := true } }
        else s.completed i [] := by
  have hcommit (fs : List Event) := commit_finished_of_commitWindow hrest.1 (es := fs) (hresults fs)
  by_cases hP : P
  · have hbytes := List.forall_mem_append.2 ⟨isPanelByte_windowEvents s.cfg x0 y0 x1 y1, hes⟩
    obtain ⟨t, hexec, hbusy, hsettle⟩ :=
      exec_commits hrest hlegal (fun _ => hready) (hsent hP ▸ plan_panelBytes_finish _ hbytes)
    refine ⟨t, hexec, hbusy, ?_⟩
    rw [if_pos hP, hsettle, hcommit, beginsWrite_panelSession _ hbytes, beginsWrite_windowEvents, Bool.or_true]
  · obtain ⟨t, hexec, hbusy, hsettle⟩ :=
      exec_commits hrest hlegal (fun _ => hready) (es := []) (hdropped hP ▸ rfl)
    refine ⟨t, hexec, hbusy, ?_⟩
    rw [if_neg hP, hsettle, hcommit, show beginsWrite s.cfg [] = false from rfl, Bool.or_false]
    rfl

/-- Settles O12: the window is on the panel exactly when SET_WINDOW sends it. -/
theorem setWindowCompletes : Obligations.SetWindowCompletes := by
  intro s hrest hready a
  have hwin := winOK_natCast_iff s.cfg s.orient a.x0 a.y0 a.x1 a.y1
  rw [← List.append_nil (windowEvents _ _ _ _ _)]
  refine exec_window_completes hrest hready rfl (fun _ => rfl) (by simp) (fun hok => ?_) (fun hnot => ?_)
  · rw [List.append_nil, ← pWindow_eq]
    exact congrArg (· ++ [Act.finish]) (if_pos (hwin.2 hok))
  · exact congrArg (· ++ [Act.finish]) (if_neg (hwin.not.2 hnot))

theorem inBounds_natCast_iff (c : Config) (o : Orientation) (x y : Nat) :
    inBounds c o x y = true ↔ x < width c o ∧ y < height c o := by
  simp [inBounds]

/-- The procedure of one drawing step that is on the panel. -/
theorem drawActs_shown {c : Config} {o : Orientation} {d : Draw} {es : List Event} (hevents : d.events c o = es) :
    drawActs c o [d] ++ [.finish] = panelBytes es ++ [.finish] := by
  rw [drawActs_eq, ← hevents, drawEvents, List.flatMap_singleton]

/-- Settles O14: the pixel is a window of its own with one word. -/
theorem setPixelCompletes : Obligations.SetPixelCompletes := by
  intro s hrest hready a
  have hbounds := inBounds_natCast_iff s.cfg s.orient a.x0 a.y0
  have hbytes : ∀ e ∈ wordEvents a.fg, isPanelByte e = true := by simp [wordEvents, isPanelByte]
  refine exec_window_completes hrest hready rfl (fun _ => rfl) hbytes (fun hin => ?_) (fun hout => ?_)
  · exact drawActs_shown (if_pos (hbounds.2 hin))
  · exact drawActs_shown (es := []) (if_neg (hbounds.not.2 hout))

/-- The words of a window on the panel, counted in natural numbers. -/
theorem windowWords_natCast {x0 y0 x1 y1 : Nat} (hx : x0 ≤ x1) (hy : y0 ≤ y1) :
    (((x1 : Int) - x0 + 1) * ((y1 : Int) - y0 + 1)).toNat = (x1 - x0 + 1) * (y1 - y0 + 1) := by
  rw [← Nat.cast_sub hx, ← Nat.cast_sub hy]
  exact Int.toNat_natCast _

/-- The events of a FILL on the panel. -/
theorem fill_events_natCast {c : Config} {o : Orientation} {x0 y0 x1 y1 : Nat} (colour : Half)
    (hok : x0 ≤ x1 ∧ x1 < width c o ∧ y0 ≤ y1 ∧ y1 < height c o) :
    Draw.events c o (.fill x0 y0 x1 y1 colour) =
      windowEvents c x0 y0 x1 y1 ++ wordsEvents ((x1 - x0 + 1) * (y1 - y0 + 1)) colour := by
  have hshown := (winOK_natCast_iff c o x0 y0 x1 y1).2 hok
  obtain ⟨hx, _, hy, _⟩ := hok
  rw [← windowWords_natCast hx hy]
  exact if_pos hshown

/-- Settles O15: the area is one window with a word for each of its pixels. -/
theorem fillAreaCompletes : Obligations.FillAreaCompletes := by
  intro s hrest hready a
  have hwin := winOK_natCast_iff s.cfg s.orient a.x0 a.y0 a.x1 a.y1
  refine exec_window_completes hrest hready rfl (fun _ => rfl) (isPanelByte_wordsEvents _ a.fg) (fun hok => ?_)
    (fun hnot => ?_)
  · exact drawActs_shown (fill_events_natCast a.fg hok)
  · exact drawActs_shown (es := []) (if_neg (hwin.not.2 hnot))

/-! ### CLEAR (rule R165) -/

/-- The panel has a column and a row in every orientation (rule R9). -/
theorem dims_pos {c : Config} (h : c.wf = true) (o : Orientation) : 0 < width c o ∧ 0 < height c o := by
  simp only [Config.wf, Bool.and_eq_true, decide_eq_true_eq] at h
  simp only [width, height]
  split <;> omega

/-- The events of CLEAR before the session is put around them. -/
def clearEvents (c : Config) (o : Orientation) (colour : Half) : List Event :=
  windowEvents c 0 0 ((width c o : Int) - 1) ((height c o : Int) - 1) ++ wordsEvents (width c o * height c o) colour

theorem isPanelByte_clearEvents (c : Config) (o : Orientation) (colour : Half) :
    ∀ e ∈ clearEvents c o colour, isPanelByte e = true :=
  List.forall_mem_append.2 ⟨isPanelByte_windowEvents _ _ _ _ _, isPanelByte_wordsEvents _ _⟩

/-- CLEAR's FILL covers the whole panel, so it is sent. -/
theorem clearFill_events {c : Config} (hwf : c.wf = true) (o : Orientation) (colour : Half) :
    Draw.events c o (.fill 0 0 ((width c o : Int) - 1) ((height c o : Int) - 1) colour) = clearEvents c o colour := by
  obtain ⟨hw, hh⟩ := dims_pos hwf o
  have hevents := fill_events_natCast (c := c) (o := o) (x0 := 0) (y0 := 0) (x1 := width c o - 1)
    (y1 := height c o - 1) colour ⟨by omega, by omega, by omega, by omega⟩
  simpa [clearEvents, Nat.cast_sub hw, Nat.cast_sub hh, Nat.sub_add_cancel hw, Nat.sub_add_cancel hh] using hevents

/-- Settles O16: the whole panel is one window, and the commit clears DIRTY. -/
theorem clearCompletes : Obligations.ClearCompletes := by
  intro s hrest hready hwf w h
  have hbytes := isPanelByte_clearEvents s.cfg s.orient s.arg.fg
  have hacts : procedureOf .clear (s.latch .clear) =
      panelBytes (clearEvents s.cfg s.orient s.arg.fg) ++ [.finish] :=
    drawActs_shown (clearFill_events hwf s.orient s.arg.fg)
  obtain ⟨t, hexec, hbusy, hsettle⟩ :=
    exec_commits hrest rfl (fun _ => hready) (hacts ▸ plan_panelBytes_finish _ hbytes)
  refine ⟨t, hexec, hbusy, ?_⟩
  rw [hsettle, commit_finished_clear hrest.1, beginsWrite_panelSession _ hbytes, clearEvents,
    beginsWrite_windowEvents, Bool.or_true]

/-! ### The panel after CLEAR (rules R90, R165, R321) -/

/-- The panel that has given up what CASET finds unfinished (rule R90). -/
def Panel.settled (p : Panel) : Panel := { p.abandon with mode := .idle }

theorem Panel.settled_steady (p : Panel) : p.settled.steady = true := rfl

/-- P_WINDOW does to any panel what it does to the panel that has given up its unfinished word or list. -/
theorem afterAll_windowEvents_settled (c : Config) (w h : Nat) (x0 y0 x1 y1 : Int) (p : Panel) :
    p.afterAll c w h (windowEvents c x0 y0 x1 y1) = p.settled.afterAll c w h (windowEvents c x0 y0 x1 y1) := by
  have hcaset : p.after c w h (.ptx .command c.regCaset) = p.settled.after c w h (.ptx .command c.regCaset) := by
    simp [Panel.after, Panel.command, Panel.settled, Panel.abandon_steady]
  simp only [windowEvents, List.cons_append, Panel.afterAll_cons, hcaset]

/-- After CLEAR's events every pixel of the panel reads its colour, whatever the panel was in the middle of. -/
theorem readPixel_afterAll_clearEvents {c : Config} (hwf : c.wf = true) (hdistinct : panelBytesDistinct c = true)
    (o : Orientation) (colour : Half) (p : Panel) {x y : Nat} (hx : x < width c o) (hy : y < height c o) :
    readPixel (p.afterAll c (width c o) (height c o) (clearEvents c o colour)).img x y = some colour := by
  have hshown : winOK c o 0 0 ((width c o : Int) - 1) ((height c o : Int) - 1) = true := by
    simp only [winOK, Bool.and_eq_true, decide_eq_true_eq]
    omega
  have hpaints := paints_fill_events (colour := colour) hwf hdistinct p.settled_steady hshown
  have hcovers : (Draw.fill 0 0 ((width c o : Int) - 1) ((height c o : Int) - 1) colour).covers x y = true := by
    simp only [Draw.covers, Bool.and_eq_true, decide_eq_true_eq]
    omega
  rw [clearFill_events hwf] at hpaints
  have hpixel := hpaints.pixel x y (hx.trans (dims_lt hwf o).1)
  rw [lastShown_singleton, hcovers, Draw.shown, hshown] at hpixel
  rw [clearEvents, Panel.afterAll_append, afterAll_windowEvents_settled, ← Panel.afterAll_append]
  exact hpixel

theorem image_eq_replicate {s : State} {v : Option Half}
    (h : ∀ x y, x < width s.cfg s.orient → y < height s.cfg s.orient → readPixel s.panel.img x y = v) :
    s.image = List.replicate (height s.cfg s.orient) (List.replicate (width s.cfg s.orient) v) := by
  simp only [State.image, List.eq_replicate_iff, List.length_map, List.length_range, List.forall_mem_map,
    List.mem_range, true_and]
  exact fun y hy x hx => h x y hx hy

/-- The image once a command has made these panel bytes in a session: that of the panel after them. -/
theorem completed_image (s : State) (i : Instr) {es : List Event} (hes : ∀ e ∈ es, isPanelByte e = true) :
    (s.completed i (panelSession es)).image =
      State.image { s with panel := s.panel.afterAll s.cfg (width s.cfg s.orient) (height s.cfg s.orient) es } := by
  have hpanel := (afterEvents_panel_eq (s.latch i) (panelSession es)).trans (Panel.afterAll_panelSession _ _ _ _ hes)
  obtain ⟨log, sess, pins, panel, draws, hframe⟩ := afterEvents_frame (panelSession es) (s.latch i)
  rw [hframe] at hpanel
  obtain rfl := hpanel
  rw [State.completed, hframe]
  rfl

/-- Settles O47: CLEAR's events are those of its statement, and they paint the whole panel. -/
theorem clearFillsThePanel : Obligations.ClearFillsThePanel := by
  intro s hrest hready hwf hdistinct
  obtain ⟨t, hexec, _, hsettle⟩ := clearCompletes s hrest hready hwf
  refine ⟨t, hexec, congrArg (fun u => u.status.dirty) hsettle, ?_⟩
  have himage := completed_image s .clear (isPanelByte_clearEvents s.cfg s.orient s.arg.fg)
  refine (congrArg State.image hsettle).trans (himage.trans (image_eq_replicate fun x y hx hy => ?_))
  exact readPixel_afterAll_clearEvents hwf hdistinct s.orient s.arg.fg s.panel hx hy

end Sys2Proof.Machine

/-! The stamp: a span counts every integer between its ends once, so a footprint is its square, row by row. -/

namespace Sys2Proof.Machine

/-! ### Spans (rule R14) -/

theorem span_eq_map (lo hi : Int) :
    span lo hi = (List.range (hi - lo + 1).toNat).map fun k : Nat => lo + (k : Int) := by
  rw [span, bind_pure_comp, List.map_eq_map, List.map_map]
  rfl

@[simp] theorem mem_span {lo hi t : Int} : t ∈ span lo hi ↔ lo ≤ t ∧ t ≤ hi := by
  simp only [span_eq_map, List.mem_map, List.mem_range]
  constructor
  · rintro ⟨k, hk, rfl⟩
    omega
  · rintro ⟨hlo, hhi⟩
    exact ⟨(t - lo).toNat, by omega, by omega⟩

theorem pairwise_lt_span (lo hi : Int) : (span lo hi).Pairwise (· < ·) := by
  rw [span_eq_map, List.pairwise_map]
  exact List.pairwise_lt_range.imp fun hlt => by omega

/-! ### Footprints (rule R181) -/

theorem mem_footprint {x y size : Int} {ds : DotStyle} {p : Int × Int} : p ∈ footprint x y size ds ↔
    (x + stampLow size ds ≤ p.1 ∧ p.1 ≤ x + (size - 1)) ∧ y + stampLow size ds ≤ p.2 ∧ p.2 ≤ y + (size - 1) := by
  simp only [footprint, List.mem_flatMap, List.mem_map, mem_span]
  constructor
  · rintro ⟨dy, hdy, dx, hdx, rfl⟩
    dsimp only
    omega
  · rintro ⟨hx, hy⟩
    exact ⟨p.2 - y, by omega, p.1 - x, by omega, Prod.ext (by simp) (by simp)⟩

/-- A stamp covers its own anchor. -/
theorem anchor_mem_footprint (x y : Int) {size : Int} (hsize : 1 ≤ size) (ds : DotStyle) :
    (x, y) ∈ footprint x y size ds := by
  have hlow : stampLow size ds ≤ 0 := by cases ds <;> simp only [stampLow] <;> omega
  rw [mem_footprint]
  simp only
  omega

/-- Rows run from top to bottom, and each row from left to right (rule R182). -/
theorem pairwise_footprint (x y size : Int) (ds : DotStyle) :
    (footprint x y size ds).Pairwise fun a b => a.2 < b.2 ∨ (a.2 = b.2 ∧ a.1 < b.1) := by
  have hspan := pairwise_lt_span (stampLow size ds) (size - 1)
  refine List.pairwise_flatMap.2 ⟨fun dy _ => ?_, hspan.imp fun hdy => ?_⟩
  · exact List.pairwise_map.2 (hspan.imp fun hdx => .inr ⟨rfl, Int.add_lt_add_left hdx x⟩)
  · simp only [List.mem_map]
    rintro _ ⟨dx, _, rfl⟩ _ ⟨dx', _, rfl⟩
    exact .inl (Int.add_lt_add_left hdy y)

/-- Settles O49: the spans of the two axes make the square of either dot style. -/
theorem footprintIsTheSquare : Obligations.FootprintIsTheSquare := by
  intro x y size p _
  refine ⟨?_, ?_, pairwise_footprint x y size⟩
  · rw [mem_footprint, stampLow]
    omega
  · rw [mem_footprint, stampLow]
    omega

end Sys2Proof.Machine

/-! The whole effect of the rasterizer's four commands: each is a list of drawing steps in one PANEL session, and opens
a window exactly when one of its steps is on the panel. -/

namespace Sys2Proof.Machine

/-! ### Drawing steps in one session (rules R42, R77, R180) -/

/-- A drawing step begins a pixel write exactly when it is on the panel. -/
theorem beginsWrite_draw_events (c : Config) (o : Orientation) (d : Draw) :
    beginsWrite c (d.events c o) = d.shown c o := by
  cases hshown : d.shown c o with
  | false => simp [Draw.events, hshown, beginsWrite]
  | true => cases d <;> simp only [Draw.events, hshown, if_true, beginsWrite_windowEvents]

/-- Drawing steps begin a pixel write exactly when one of them is on the panel. -/
theorem beginsWrite_drawSession (c : Config) (o : Orientation) (ds : List Draw) :
    beginsWrite c (panelSession (drawEvents c o ds)) = ds.any (Draw.shown c o) := by
  rw [beginsWrite_panelSession c (isPanelByte_drawEvents c o ds), beginsWrite, drawEvents, List.any_flatMap]
  exact congrArg ds.any (funext (beginsWrite_draw_events c o))

/-- A drawing command makes one session of its drawing steps and commits. -/
theorem exec_draws {s : State} (hrest : s.atRest) (hready : s.status.ready = true) {i : Instr} {ds : List Draw}
    (h : drawSteps s i = some ds) :
    ∃ t, exec i s = .next t ∧ t.busy = true ∧
      t.settle = commit (Running.finished s.cfg i (panelSession (drawEvents s.cfg s.orient ds)))
        (s.finished i (panelSession (drawEvents s.cfg s.orient ds))) := by
  obtain ⟨hlegal, _, _, hacts⟩ := procedureOf_of_drawSteps h
  exact exec_commits hrest hlegal (fun _ => hready)
    (hacts ▸ plan_panelBytes_finish _ (isPanelByte_drawEvents s.cfg s.orient ds))

/-- A drawing command that commits nothing but WINOPEN. -/
theorem exec_draws_window {s : State} (hrest : s.atRest) (hready : s.status.ready = true) {i : Instr} {ds : List Draw}
    (h : drawSteps s i = some ds)
    (hresults : ∀ es, commitResults (Running.finished s.cfg i es) = State.commitWindow (Running.finished s.cfg i es)) :
    ∃ t, exec i s = .next t ∧ t.busy = true ∧
      t.settle = { s.completed i (panelSession (drawEvents s.cfg s.orient ds)) with
        status := { s.status with
          winopen := s.status.winopen || ds.any (Draw.shown s.cfg s.orient), done := true } } := by
  obtain ⟨t, hexec, hbusy, hsettle⟩ := exec_draws hrest hready h
  refine ⟨t, hexec, hbusy, ?_⟩
  rw [hsettle, commit_finished_of_commitWindow hrest.1 (hresults _), beginsWrite_drawSession]

/-- A drawing command that commits WINOPEN and DOTCNT. -/
theorem exec_draws_dotcnt {s : State} (hrest : s.atRest) (hready : s.status.ready = true) {i : Instr} {ds : List Draw}
    (h : drawSteps s i = some ds) {n : Nat}
    (hresults : ∀ es, commitResults (Running.finished s.cfg i es) (s.finished i es) =
      { (s.finished i es).commitWindow (Running.finished s.cfg i es) with dotcnt := n }) :
    ∃ t, exec i s = .next t ∧ t.busy = true ∧
      t.settle = { s.completed i (panelSession (drawEvents s.cfg s.orient ds)) with
        status := { s.status with
          winopen := s.status.winopen || ds.any (Draw.shown s.cfg s.orient), done := true }
        dotcnt := n } := by
  obtain ⟨t, hexec, hbusy, hsettle⟩ := exec_draws hrest hready h
  refine ⟨t, hexec, hbusy, ?_⟩
  rw [hsettle, commit, hresults, ← completed_setIdle hrest.1, ← beginsWrite_drawSession]
  rfl

/-- Before its commit a command has changed neither the parameters nor DOTCNT, and it reads the latched arguments. -/
theorem finished_operands (s : State) (i : Instr) (es : List Event) :
    (s.finished i es).cfg = s.cfg ∧ (s.finished i es).argl = s.arg ∧ (s.finished i es).dotcnt = s.dotcnt := by
  obtain ⟨log, sess, pins, panel, draws, hframe⟩ := afterEvents_frame es (s.latch i)
  rw [State.finished, State.completed, hframe]
  exact ⟨rfl, rfl, rfl⟩

theorem sizeLegal_of_le {sz : Nat} (hlow : 1 ≤ sz) (hhigh : sz ≤ 8) : sizeLegal sz = true := by
  simp [sizeLegal, hlow, hhigh]

/-! ### DRAW_POINT (rules R180, R182, R200) -/

/-- Single pixels send those of them that are on the panel. -/
theorem drawEvents_pixels (c : Config) (o : Orientation) (colour : Half) (ps : List (Int × Int)) :
    drawEvents c o (ps.map fun p => .pixel p.1 p.2 colour) =
      (ps.filter fun p => inBounds c o p.1 p.2).flatMap fun p =>
        windowEvents c p.1 p.2 p.1 p.2 ++ wordEvents colour := by
  induction ps with
  | nil => rfl
  | cons p ps ih =>
    rw [drawEvents, List.map_cons, List.flatMap_cons, ← drawEvents, ih]
    cases hin : inBounds c o p.1 p.2 <;> simp [Draw.events, Draw.shown, hin]

/-- A stamp with its anchor on the panel shows the anchor. -/
theorem any_shown_stamp {c : Config} {o : Orientation} {x y size : Int} (colour : Half) (ds : DotStyle)
    (hin : inBounds c o x y = true) (hsize : 1 ≤ size) :
    (stamp c o x y colour size ds).any (Draw.shown c o) = true := by
  rw [stamp, if_pos hin, List.any_map, List.any_eq_true]
  exact ⟨(x, y), anchor_mem_footprint x y hsize ds, hin⟩

/-- Settles O17: an anchor on the panel makes its stamp's pixels, and the anchor itself opens the window. -/
theorem drawPointCompletes : Obligations.DrawPointCompletes := by
  intro s sz ds hrest hready hlow hhigh a pixels
  have hsteps : drawSteps s (.drawPoint sz ds) = some (stamp s.cfg s.orient a.x0 a.y0 a.fg sz ds) :=
    if_pos (sizeLegal_of_le hlow hhigh)
  obtain ⟨t, hexec, hbusy, hsettle⟩ := exec_draws_window hrest hready hsteps fun _ => rfl
  refine ⟨t, hexec, hbusy, hsettle.trans ?_⟩
  have hbounds := inBounds_natCast_iff s.cfg s.orient a.x0 a.y0
  by_cases hin : a.x0 < width s.cfg s.orient ∧ a.y0 < height s.cfg s.orient
  · rw [if_pos hin, any_shown_stamp a.fg ds (hbounds.2 hin) (by omega), stamp, if_pos (hbounds.2 hin),
      drawEvents_pixels, Bool.or_true]
  · rw [if_neg hin, stamp, if_neg (hbounds.not.2 hin), List.any_nil, Bool.or_false]
    rfl

/-! ### DRAW_LINE (rules R183, R184, R185, R203) -/

/-- LINE takes the band exactly where rule R183 says. -/
theorem takesBand_iff (x0 y0 x1 y1 : Int) (ls : LineStyle) : takesBand x0 y0 x1 y1 ls = true ↔
    ls = .solid ∧ ((y0 = y1 ∧ x0 ≠ x1) ∨ (x0 = x1 ∧ y0 ≠ y1)) := by
  cases ls <;> by_cases hx : x0 = x1 <;> by_cases hy : y0 = y1 <;> simp [takesBand, hx, hy]

/-- The band of a horizontal line. -/
theorem band_horizontal (c : Config) (o : Orientation) (x0 x1 y : Int) (colour : Half) (size : Int) :
    band c o x0 y x1 y colour size =
      if min x0 x1 ≤ (width c o : Int) - 1 ∧ y ≤ (height c o : Int) - 1 ∧ 1 ≤ size then
        [.fill (min x0 x1) y (min (max x0 x1) ((width c o : Int) - 1)) (min (y + size - 1) ((height c o : Int) - 1))
          colour]
      else [] := by
  simp only [band, bandClip, bandRect, if_true, min_self]
  exact if_congr (by omega) rfl rfl

/-- The band of a vertical line. -/
theorem band_vertical (c : Config) (o : Orientation) (x : Int) {y0 y1 : Int} (hy : y0 ≠ y1) (colour : Half)
    (size : Int) :
    band c o x y0 x y1 colour size =
      if x ≤ (width c o : Int) - 1 ∧ 1 ≤ size ∧ min y0 y1 ≤ (height c o : Int) - 1 then
        [.fill x (min y0 y1) (min (x + size - 1) ((width c o : Int) - 1)) (min (max y0 y1) ((height c o : Int) - 1))
          colour]
      else [] := by
  simp only [band, bandClip, bandRect, if_neg hy, min_self]
  exact if_congr (by omega) rfl rfl

/-- LINE as the model computes it is LINE as rules R183 and R185 write it. -/
theorem line_eq_lineByRule (c : Config) (o : Orientation) (x0 y0 x1 y1 : Int) (fg bg : Half) (size : Int)
    (ls : LineStyle) (ds : DotStyle) :
    line c o x0 y0 x1 y1 fg bg size ls ds = lineByRule c o x0 y0 x1 y1 fg bg size ls ds := by
  have hband := takesBand_iff x0 y0 x1 y1 ls
  rw [line, lineByRule]
  by_cases hhor : ls = .solid ∧ y0 = y1 ∧ x0 ≠ x1
  · rw [if_pos (hband.2 ⟨hhor.1, .inl hhor.2⟩), if_pos hhor]
    obtain ⟨_, rfl, _⟩ := hhor
    exact band_horizontal c o x0 x1 y0 fg size
  rw [if_neg hhor]
  by_cases hver : ls = .solid ∧ x0 = x1 ∧ y0 ≠ y1
  · rw [if_pos (hband.2 ⟨hver.1, .inr hver.2⟩), if_pos hver]
    obtain ⟨_, rfl, hy⟩ := hver
    exact band_vertical c o x0 hy fg size
  · rw [if_neg hver, if_neg]
    rw [hband]
    rintro ⟨hls, h | h⟩
    · exact hhor ⟨hls, h⟩
    · exact hver ⟨hls, h⟩

/-- The endpoints of DRAW_LINE, each axis decided by its own order (rule R203). -/
theorem lineEnds_eq (swap : Bool) (a : Args) : lineEnds swap a =
    (if swap = true ∧ a.x1 < a.x0 then (a.x1 : Int) else a.x0, if swap = true ∧ a.y1 < a.y0 then (a.y1 : Int) else a.y0,
      if swap = true ∧ a.x1 < a.x0 then (a.x0 : Int) else a.x1,
      if swap = true ∧ a.y1 < a.y0 then (a.y0 : Int) else a.y1) := by
  cases swap with
  | false => simp [lineEnds]
  | true =>
    simp only [lineEnds, if_true, true_and, Prod.mk.injEq]
    refine ⟨?_, ?_, ?_, ?_⟩ <;> split <;> omega

/-- Settles O18: the steps are LINE's on the chosen endpoints, and the commit holds what they leave of DOTCNT. -/
theorem drawLineCompletes : Obligations.DrawLineCompletes := by
  intro s sz ls ds hrest hready hlow hhigh a sw x0 x1 y0 y1 steps
  have hends : lineEnds s.cfg.lineAxisSwap s.arg = (x0, y0, x1, y1) := lineEnds_eq sw a
  have hsteps : drawSteps s (.drawLine sz ls ds) = some steps := by
    refine (if_pos (sizeLegal_of_le hlow hhigh)).trans (congrArg some ?_)
    simp only [drawLineDraws, State.latch_cfg, State.latch_argl, State.latch_orient, hends, steps]
    exact line_eq_lineByRule ..
  refine exec_draws_dotcnt hrest hready hsteps fun es => ?_
  obtain ⟨hcfg, hargl, _⟩ := finished_operands s (.drawLine sz ls ds) es
  simp only [commitResults, Running.finished, commitDrawLine, hcfg, hargl, hends]

/-! ### DRAW_RECT (rules R196, R197, R198, R206) -/

/-- Settles O19: the steps are one FILL or LINE on the four edges; the last edge leaves DOTCNT. -/
theorem drawRectCompletes : Obligations.DrawRectCompletes := by
  intro s sz ls fl ds hrest hready hlow hhigh a xa xb ya yb edge steps
  have hsteps : drawSteps s (.drawRect sz ls fl ds) = some steps := by
    refine (if_pos (sizeLegal_of_le hlow hhigh)).trans (congrArg some ?_)
    cases fl with
    | filled => rfl
    | stroked =>
      simp only [drawRectDraws, rectCorners, strokedRect, rectEdges, line_eq_lineByRule, List.flatMap_cons,
        List.flatMap_nil, List.append_nil, List.append_assoc, steps, edge]
      rfl
  refine exec_draws_dotcnt hrest hready hsteps fun es => ?_
  obtain ⟨_, hargl, hdotcnt⟩ := finished_operands s (.drawRect sz ls fl ds) es
  simp only [commitResults, Running.finished, commitDrawRect, hargl, hdotcnt]
  cases fl <;> rfl

/-! ### DRAW_CIRCLE (rules R199, R210) -/

/-- Settles O20: CIRC's points are the eight of each step, so its drawing steps are the eight stamps or pixels. -/
theorem drawCircleCompletes : Obligations.DrawCircleCompletes := by
  intro s sz fl ds hrest hready hlow hhigh a xc yc eight steps
  have hsteps : drawSteps s (.drawCircle sz fl ds) = some steps := by
    refine (if_pos (sizeLegal_of_le hlow hhigh)).trans (congrArg some ?_)
    cases fl with
    | stroked => exact List.flatMap_assoc
    | filled =>
      simp only [drawCircleDraws, circ, filledPoints, List.map_flatMap]
      rfl
  exact exec_draws_window hrest hready hsteps fun _ => rfl

end Sys2Proof.Machine

/-! Lines: the dotted pattern, the steps of BRES with their error term, and the band's pixels beside them. -/

namespace Sys2Proof.Machine

/-! ### The dotted pattern (rules R186, R190) -/

/-- DOTCNT after one stamp of a dotted line. -/
theorem dotNext_dotted (n : Nat) : dotNext .dotted (n % 3) = (n + 1) % 3 := by
  simp only [dotNext, isGap, beq_iff_eq]
  split <;> omega

/-- A dotted line whose DOTCNT stands at `n` modulo 3 marks every third stamp, counting on from `n`. -/
theorem dotPattern_dotted (ps : List (Int × Int)) (n : Nat) : dotPattern .dotted (n % 3) ps =
    (ps.zipIdx n).map fun q => (q.1, decide ((q.2 + 1) % 3 = 0)) := by
  induction ps generalizing n with
  | nil => rfl
  | cons p ps ih =>
    have hgap : isGap .dotted (n % 3 + 1) = decide ((n + 1) % 3 = 0) := by
      rw [isGap, Bool.eq_iff_iff, beq_iff_eq, decide_eq_true_eq]
      omega
    rw [dotPattern, hgap, dotNext_dotted, ih, List.zipIdx_cons, List.map_cons]

/-- A solid line marks no stamp. -/
theorem dotPattern_solid (ps : List (Int × Int)) (n : Nat) : dotPattern .solid n ps = ps.map (·, false) := by
  induction ps generalizing n with
  | nil => rfl
  | cons p ps ih => rw [dotPattern, ih, isGap, List.map_cons]

/-- DOTCNT after the stamps of a dotted line. -/
theorem foldl_dotNext_dotted (ps : List (Int × Int)) (n : Nat) :
    ps.foldl (fun cnt _ => dotNext .dotted cnt) (n % 3) = (n + ps.length) % 3 := by
  induction ps generalizing n with
  | nil => rfl
  | cons p ps ih =>
    rw [List.foldl_cons, dotNext_dotted, ih, List.length_cons, Nat.add_right_comm, Nat.add_assoc]

/-- A dotted line never takes the band (rule R183). -/
theorem takesBand_dotted (x0 y0 x1 y1 : Int) : takesBand x0 y0 x1 y1 .dotted = false := rfl

/-- Settles O52: the pattern starts at 0, so the stamp of index `k` is a gap exactly when `k + 1` is a multiple of 3. -/
theorem dottedEveryThirdStamp : Obligations.DottedEveryThirdStamp := by
  intro c o x0 y0 x1 y1 fg bg size ds
  refine ⟨?_, ?_, ?_⟩
  · rw [line, takesBand_dotted, if_neg Bool.false_ne_true, bres, ← Nat.zero_mod 3, dotPattern_dotted, List.flatMap_map]
    simp only [decide_eq_true_eq]
  · rw [lineDotcnt, takesBand_dotted, if_neg Bool.false_ne_true, ← Nat.zero_mod 3, foldl_dotNext_dotted, Nat.zero_add]
  · rw [bres, dotPattern_solid, List.flatMap_map]
    rfl

/-! ### BRES as the iteration of its step (rule R186) -/

/-- One iteration of BRES on its anchor and error term: both tests read the same error. -/
def bresStep (dx dy sx sy : Int) (q : (Int × Int) × Int) : (Int × Int) × Int :=
  ((if dy ≤ 2 * q.2 then q.1.1 + sx else q.1.1, if 2 * q.2 ≤ dx then q.1.2 + sy else q.1.2),
    q.2 + (if dy ≤ 2 * q.2 then dy else 0) + (if 2 * q.2 ≤ dx then dx else 0))

/-- BRES stamps the anchors of its iterations up to the first that is the endpoint. -/
theorem bresLoop_eq_map {x1 y1 dx dy sx sy : Int} (n : Nat) : ∀ (fuel : Nat) (q : (Int × Int) × Int), n < fuel →
    (∀ k < n, ((bresStep dx dy sx sy)^[k] q).1 ≠ (x1, y1)) → ((bresStep dx dy sx sy)^[n] q).1 = (x1, y1) →
      bresLoop x1 y1 dx dy sx sy fuel q.1.1 q.1.2 q.2 =
        (List.range (n + 1)).map fun k => ((bresStep dx dy sx sy)^[k] q).1 := by
  induction n with
  | zero =>
    rintro (_ | fuel) q hfuel _ hend
    · omega
    · have hhere : q.1 = (x1, y1) := hend
      simp [bresLoop, hhere]
  | succ n ih =>
    rintro (_ | fuel) q hfuel hbefore hend
    · omega
    · have hhere : ¬(q.1.1 = x1 ∧ q.1.2 = y1) := fun h => hbefore 0 n.succ_pos (Prod.ext h.1 h.2)
      rw [bresLoop, if_neg hhere, List.range_succ_eq_map, List.map_cons, List.map_map]
      exact congrArg _ (ih fuel (bresStep dx dy sx sy q) (by omega) (fun k hk => hbefore (k + 1) (by omega)) hend)

/-- The direction of a step along one axis (rule R186). -/
def towards (p q : Int) : Int := if p < q then 1 else -1

theorem towards_cases (p q : Int) : towards p q = 1 ∨ towards p q = -1 := by
  rw [towards]
  split
  · exact .inl rfl
  · exact .inr rfl

/-- The endpoint lies in the step's direction. -/
theorem add_towards_mul_abs (p q : Int) : p + towards p q * |q - p| = q := by
  rw [towards]
  split
  · rw [abs_of_pos (by omega)]
    omega
  · rw [abs_of_nonpos (by omega)]
    omega

/-- Anchor and error term of BRES after `k` iterations. -/
def bresState (x0 y0 x1 y1 : Int) (k : Nat) : (Int × Int) × Int :=
  (bresStep |x1 - x0| (-|y1 - y0|) (towards x0 x1) (towards y0 y1))^[k] ((x0, y0), |x1 - x0| + -|y1 - y0|)

theorem bresState_succ (x0 y0 x1 y1 : Int) (k : Nat) : bresState x0 y0 x1 y1 (k + 1) =
    bresStep |x1 - x0| (-|y1 - y0|) (towards x0 x1) (towards y0 y1) (bresState x0 y0 x1 y1 k) :=
  Function.iterate_succ_apply' ..

/-! ### The error term (rule R187) -/

/-- What holds of BRES on a box of sides `a` and `b` after `k` iterations, when it has moved by `i` and `j` and the
error is `e`: the longer axis has moved each time, and `e` measures how far the anchor is off the line. -/
structure BresOffsets (a b : Int) (k : Nat) (i j e : Int) : Prop where
  across : 0 ≤ i ∧ i ≤ k
  down : 0 ≤ j ∧ j ≤ k
  error : e = a * (j + 1) - b * (i + 1)
  wide : b ≤ a → i = k ∧ -b ≤ 2 * e ∧ 2 * e ≤ 3 * a - 2 * b
  tall : a < b → j = k ∧ 2 * a - 3 * b ≤ 2 * e ∧ 2 * e ≤ a

section BresOffsets

variable {a b i j e : Int} {k : Nat}

theorem BresOffsets.start (ha : 0 ≤ a) (hb : 0 ≤ b) : BresOffsets a b 0 0 0 (a + -b) where
  across := ⟨le_rfl, le_rfl⟩
  down := ⟨le_rfl, le_rfl⟩
  error := by ring
  wide _ := ⟨rfl, by omega, by omega⟩
  tall _ := ⟨rfl, by omega, by omega⟩

theorem BresOffsets.step (h : BresOffsets a b k i j e) (ha : 0 ≤ a) (hb : 0 ≤ b) :
    BresOffsets a b (k + 1) (if -b ≤ 2 * e then i + 1 else i) (if 2 * e ≤ a then j + 1 else j)
      (e + (if -b ≤ 2 * e then -b else 0) + (if 2 * e ≤ a then a else 0)) := by
  obtain ⟨hacross, hdown, herror, hwide, htall⟩ := h
  refine ⟨?_, ?_, ?_, fun hab => ?_, fun hab => ?_⟩
  · split <;> omega
  · split <;> omega
  · rw [herror]
    split_ifs <;> ring
  · obtain ⟨hi, hlow, hhigh⟩ := hwide hab
    rw [if_pos hlow, if_pos hlow]
    split <;> omega
  · obtain ⟨hj, hlow, hhigh⟩ := htall hab
    rw [if_pos hhigh, if_pos hhigh]
    split <;> omega

theorem BresOffsets.error_bounds (h : BresOffsets a b k i j e) (ha : 0 ≤ a) (hb : 0 ≤ b) :
    2 * -b ≤ e ∧ e ≤ 2 * a := by
  obtain ⟨_, _, _, hwide, htall⟩ := h
  omega

/-- The far corner is not reached before the longer side's length. -/
theorem BresOffsets.not_far (h : BresOffsets a b k i j e) (hk : (k : Int) < max a b) : ¬(i = a ∧ j = b) := by
  obtain ⟨_, _, _, hwide, htall⟩ := h
  omega

/-- After the longer side's length the shorter axis has caught up: the error bounds leave no other offset. -/
theorem BresOffsets.far (h : BresOffsets a b k i j e) (ha : 0 ≤ a) (hb : 0 ≤ b) (hk : (k : Int) = max a b) :
    i = a ∧ j = b := by
  obtain ⟨hi, hj, rfl, hwide, htall⟩ := h
  rcases le_or_gt b a with hab | hab
  · obtain ⟨hik, hlow, hhigh⟩ := hwide hab
    obtain rfl : i = a := by omega
    exact ⟨rfl, le_antisymm (by nlinarith) (by nlinarith)⟩
  · obtain ⟨hjk, hlow, hhigh⟩ := htall hab
    obtain rfl : j = b := by omega
    exact ⟨le_antisymm (by nlinarith) (by nlinarith), rfl⟩

/-- On a box of height 0 only the first axis moves. -/
theorem BresOffsets.flat (h : BresOffsets a 0 k i j e) (ha : 0 < a) : i = k ∧ j = 0 := by
  obtain ⟨hi, hj, rfl, hwide, _⟩ := h
  obtain ⟨hik, _, hhigh⟩ := hwide ha.le
  exact ⟨hik, by nlinarith⟩

/-- On a box of width 0 only the second axis moves. -/
theorem BresOffsets.upright (h : BresOffsets 0 b k i j e) (hb : 0 < b) : i = 0 ∧ j = k := by
  obtain ⟨hi, hj, rfl, _, htall⟩ := h
  obtain ⟨hjk, hlow, _⟩ := htall hb
  exact ⟨by nlinarith, hjk⟩

end BresOffsets

/-! ### The stamps of BRES (rules R186, R187) -/

/-- The last index of BRES's stamps: the length of the longer axis. -/
def bresLast (x0 y0 x1 y1 : Int) : Nat := max (x1 - x0).natAbs (y1 - y0).natAbs

theorem bresLast_cast (x0 y0 x1 y1 : Int) : (bresLast x0 y0 x1 y1 : Int) = max |x1 - x0| |y1 - y0| := by
  rw [bresLast, Nat.cast_max, Int.natCast_natAbs, Int.natCast_natAbs]

section Bres

variable (x0 y0 x1 y1 : Int)

/-- Every state of BRES is some offsets from the first endpoint, toward the second. -/
theorem bresState_offsets (k : Nat) : ∃ i j,
    (bresState x0 y0 x1 y1 k).1 = (x0 + towards x0 x1 * i, y0 + towards y0 y1 * j) ∧
      BresOffsets |x1 - x0| |y1 - y0| k i j (bresState x0 y0 x1 y1 k).2 := by
  induction k with
  | zero => exact ⟨0, 0, by simp [bresState], .start (abs_nonneg _) (abs_nonneg _)⟩
  | succ k ih =>
    obtain ⟨i, j, hpoint, hoffsets⟩ := ih
    rw [bresState_succ]
    refine ⟨_, _, ?_, hoffsets.step (abs_nonneg _) (abs_nonneg _)⟩
    rw [bresStep, hpoint]
    refine Prod.ext ?_ ?_ <;> dsimp only <;> split <;> ring

/-- BRES stands at the second endpoint after the length of the longer axis. -/
theorem bresState_last : (bresState x0 y0 x1 y1 (bresLast x0 y0 x1 y1)).1 = (x1, y1) := by
  obtain ⟨i, j, hpoint, hoffsets⟩ := bresState_offsets x0 y0 x1 y1 (bresLast x0 y0 x1 y1)
  obtain ⟨rfl, rfl⟩ := hoffsets.far (abs_nonneg _) (abs_nonneg _) (bresLast_cast ..)
  rw [hpoint, add_towards_mul_abs, add_towards_mul_abs]

/-- BRES is not at the second endpoint before. -/
theorem bresState_ne_end {k : Nat} (hk : k < bresLast x0 y0 x1 y1) : (bresState x0 y0 x1 y1 k).1 ≠ (x1, y1) := by
  obtain ⟨i, j, hpoint, hoffsets⟩ := bresState_offsets x0 y0 x1 y1 k
  have hcast := bresLast_cast x0 y0 x1 y1
  intro hend
  obtain ⟨hx, hy⟩ := Prod.ext_iff.1 (hpoint.symm.trans hend)
  have hxend := add_towards_mul_abs x0 x1
  have hyend := add_towards_mul_abs y0 y1
  refine hoffsets.not_far (by omega) ⟨?_, ?_⟩
  · rcases towards_cases x0 x1 with h | h <;> rw [h] at hx hxend <;> dsimp only at hx <;> omega
  · rcases towards_cases y0 y1 with h | h <;> rw [h] at hy hyend <;> dsimp only at hy <;> omega

/-- BRES's stamps are the anchors of its states up to the last index. -/
theorem bresPoints_eq_map : bresPoints x0 y0 x1 y1 =
    (List.range (bresLast x0 y0 x1 y1 + 1)).map fun k => (bresState x0 y0 x1 y1 k).1 := by
  refine bresLoop_eq_map _ _ ((x0, y0), _) ?_ (fun k => bresState_ne_end x0 y0 x1 y1) (bresState_last x0 y0 x1 y1)
  rw [bresLast, Int.abs_eq_natAbs, Int.abs_eq_natAbs]
  omega

theorem length_bresPoints : (bresPoints x0 y0 x1 y1).length = bresLast x0 y0 x1 y1 + 1 := by
  rw [bresPoints_eq_map, List.length_map, List.length_range]

theorem getElem?_bresPoints {k : Nat} (hk : k ≤ bresLast x0 y0 x1 y1) :
    (bresPoints x0 y0 x1 y1)[k]? = some (bresState x0 y0 x1 y1 k).1 := by
  rw [bresPoints_eq_map, List.getElem?_map, List.getElem?_range (by omega), Option.map_some]

theorem getElem?_bresPoints_eq_some {k : Nat} {p : Int × Int} (h : (bresPoints x0 y0 x1 y1)[k]? = some p) :
    k ≤ bresLast x0 y0 x1 y1 ∧ p = (bresState x0 y0 x1 y1 k).1 := by
  obtain ⟨hk, _⟩ := List.getElem?_eq_some_iff.1 h
  rw [length_bresPoints] at hk
  have hle : k ≤ bresLast x0 y0 x1 y1 := by omega
  exact ⟨hle, Option.some.inj (h.symm.trans (getElem?_bresPoints x0 y0 x1 y1 hle))⟩

theorem head?_bresPoints : (bresPoints x0 y0 x1 y1).head? = some (x0, y0) := by
  rw [List.head?_eq_getElem?, getElem?_bresPoints x0 y0 x1 y1 (Nat.zero_le _)]
  rfl

theorem getLast?_bresPoints : (bresPoints x0 y0 x1 y1).getLast? = some (x1, y1) := by
  rw [List.getLast?_eq_getElem?, length_bresPoints, Nat.add_sub_cancel, getElem?_bresPoints x0 y0 x1 y1 le_rfl,
    bresState_last]

/-- One iteration moves either axis by at most 1. -/
theorem bresState_succ_near (k : Nat) :
    ((bresState x0 y0 x1 y1 (k + 1)).1.1 - (bresState x0 y0 x1 y1 k).1.1).natAbs ≤ 1 ∧
      ((bresState x0 y0 x1 y1 (k + 1)).1.2 - (bresState x0 y0 x1 y1 k).1.2).natAbs ≤ 1 := by
  have hx := towards_cases x0 x1
  have hy := towards_cases y0 y1
  rw [bresState_succ, bresStep]
  dsimp only
  constructor <;> split <;> omega

/-- Settles O50: the stamps are the states of BRES, whose offsets and error bounds end it at the second endpoint. -/
theorem bresenhamReachesItsEndpoint : Obligations.BresenhamReachesItsEndpoint := by
  intro x0 y0 x1 y1 pts dx dy sx sy
  refine ⟨length_bresPoints x0 y0 x1 y1, head?_bresPoints x0 y0 x1 y1, getLast?_bresPoints x0 y0 x1 y1, ?_,
    fun k => (bresState x0 y0 x1 y1 k).2, rfl, ?_⟩
  · intro k p q hp hq
    obtain ⟨_, rfl⟩ := getElem?_bresPoints_eq_some x0 y0 x1 y1 hp
    obtain ⟨_, rfl⟩ := getElem?_bresPoints_eq_some x0 y0 x1 y1 hq
    exact bresState_succ_near x0 y0 x1 y1 k
  · intro k p hp
    obtain ⟨hk, rfl⟩ := getElem?_bresPoints_eq_some x0 y0 x1 y1 hp
    obtain ⟨_, _, _, hoffsets⟩ := bresState_offsets x0 y0 x1 y1 k
    obtain ⟨hlow, hhigh⟩ := hoffsets.error_bounds (abs_nonneg _) (abs_nonneg _)
    refine ⟨hlow, hhigh, fun hend => ?_, fun hnot => ⟨?_, ?_⟩⟩
    · have hlast : ¬k < bresLast x0 y0 x1 y1 := fun hlt => bresState_ne_end x0 y0 x1 y1 hlt hend
      rw [List.getElem?_eq_none_iff, length_bresPoints]
      omega
    · have hne : k ≠ bresLast x0 y0 x1 y1 := fun heq => hnot (heq ▸ bresState_last x0 y0 x1 y1)
      rw [getElem?_bresPoints x0 y0 x1 y1 (by omega), bresState_succ]
      rfl
    · exact congrArg Prod.snd (bresState_succ x0 y0 x1 y1 k)

/-- BRES visits no point twice: the longer axis moves in every iteration. -/
theorem nodup_bresPoints : (bresPoints x0 y0 x1 y1).Nodup := by
  rw [bresPoints_eq_map]
  refine List.Nodup.map (fun k l heq => ?_) List.nodup_range
  obtain ⟨i, j, hk, hoffsets⟩ := bresState_offsets x0 y0 x1 y1 k
  obtain ⟨i', j', hl, hoffsets'⟩ := bresState_offsets x0 y0 x1 y1 l
  obtain ⟨hx, hy⟩ := Prod.mk.inj (hk.symm.trans (heq.trans hl))
  have hwide := hoffsets.wide
  have htall := hoffsets.tall
  have hwide' := hoffsets'.wide
  have htall' := hoffsets'.tall
  have hi : i = i' := by rcases towards_cases x0 x1 with h | h <;> rw [h] at hx <;> omega
  have hj : j = j' := by rcases towards_cases y0 y1 with h | h <;> rw [h] at hy <;> omega
  omega

/-- The points a walk from one end reaches within the length of a segment are the segment's. -/
theorem exists_towards_iff (p q x : Int) :
    (∃ k : Nat, k ≤ (q - p).natAbs ∧ p + towards p q * k = x) ↔ min p q ≤ x ∧ x ≤ max p q := by
  rw [towards]
  constructor
  · rintro ⟨k, hk, rfl⟩
    split <;> omega
  · rintro ⟨hlow, hhigh⟩
    refine ⟨(x - p).natAbs, by omega, ?_⟩
    split <;> omega

/-- The stamps of a horizontal line are the points of its segment. -/
theorem mem_bresPoints_horizontal (hx : x0 ≠ x1) (p : Int × Int) :
    p ∈ bresPoints x0 y0 x1 y0 ↔ (min x0 x1 ≤ p.1 ∧ p.1 ≤ max x0 x1) ∧ p.2 = y0 := by
  have hstate (k : Nat) : (bresState x0 y0 x1 y0 k).1 = (x0 + towards x0 x1 * k, y0) := by
    obtain ⟨i, j, hpoint, hoffsets⟩ := bresState_offsets x0 y0 x1 y0 k
    rw [sub_self, abs_zero] at hoffsets
    obtain ⟨rfl, rfl⟩ := hoffsets.flat (abs_pos.2 (by omega))
    rw [hpoint, mul_zero, add_zero]
  have hlast : bresLast x0 y0 x1 y0 = (x1 - x0).natAbs := by simp [bresLast]
  simp only [bresPoints_eq_map, List.mem_map, List.mem_range, Nat.lt_succ_iff, hstate, hlast, ← exists_towards_iff,
    Prod.ext_iff, ← exists_and_right, and_assoc, eq_comm (a := p.2)]

/-- The stamps of a vertical line are the points of its segment. -/
theorem mem_bresPoints_vertical (hy : y0 ≠ y1) (p : Int × Int) :
    p ∈ bresPoints x0 y0 x0 y1 ↔ p.1 = x0 ∧ min y0 y1 ≤ p.2 ∧ p.2 ≤ max y0 y1 := by
  have hstate (k : Nat) : (bresState x0 y0 x0 y1 k).1 = (x0, y0 + towards y0 y1 * k) := by
    obtain ⟨i, j, hpoint, hoffsets⟩ := bresState_offsets x0 y0 x0 y1 k
    rw [sub_self, abs_zero] at hoffsets
    obtain ⟨rfl, rfl⟩ := hoffsets.upright (abs_pos.2 (by omega))
    rw [hpoint, mul_zero, add_zero]
  have hlast : bresLast x0 y0 x0 y1 = (y1 - y0).natAbs := by simp [bresLast]
  simp only [bresPoints_eq_map, List.mem_map, List.mem_range, Nat.lt_succ_iff, hstate, hlast, ← exists_towards_iff,
    Prod.ext_iff, ← exists_and_left, and_left_comm, eq_comm (a := p.1)]

/-- The stamps of a horizontal or vertical line are the points of its segment. -/
theorem mem_bresPoints_of_axis (haxis : (x0 = x1 ∧ y0 ≠ y1) ∨ (x0 ≠ x1 ∧ y0 = y1)) (p : Int × Int) :
    p ∈ bresPoints x0 y0 x1 y1 ↔ min x0 x1 ≤ p.1 ∧ p.1 ≤ max x0 x1 ∧ min y0 y1 ≤ p.2 ∧ p.2 ≤ max y0 y1 := by
  rcases haxis with ⟨rfl, hy⟩ | ⟨hx, rfl⟩
  · rw [mem_bresPoints_vertical x0 y0 y1 hy]
    omega
  · rw [mem_bresPoints_horizontal x0 y0 x1 hx]
    omega

end Bres

/-! ### What the band and the stamps of size 1 cover (rules R183, R185, R188) -/

/-- Do these drawing steps show the pixel? -/
def Shows (c : Config) (o : Orientation) (ds : List Draw) (x y : Int) : Prop :=
  ∃ d ∈ ds, d.shown c o = true ∧ d.covers x y = true

section Shows

variable {c : Config} {o : Orientation} {x0 y0 x1 y1 : Int}

theorem length_band_le (colour : Half) (size : Int) : (band c o x0 y0 x1 y1 colour size).length ≤ 1 := by
  simp only [band]
  split
  · exact le_rfl
  · exact Nat.zero_le 1

/-- BAND's one step: the rectangle with its far sides clipped, if anything is left of it. -/
theorem mem_band {r : Int × Int × Int × Int} {size : Int} (hr : bandRect x0 y0 x1 y1 size = r) {colour : Half}
    {d : Draw} : d ∈ band c o x0 y0 x1 y1 colour size ↔
      (r.1 ≤ min r.2.2.1 ((width c o : Int) - 1) ∧ r.2.1 ≤ min r.2.2.2 ((height c o : Int) - 1)) ∧
        d = .fill r.1 r.2.1 (min r.2.2.1 ((width c o : Int) - 1)) (min r.2.2.2 ((height c o : Int) - 1)) colour := by
  rw [band, hr, List.mem_ite_nil_right, List.mem_singleton]
  rfl

/-- A band that starts on or after the panel's first row and column covers the pixels on the panel of its unclipped
rectangle. -/
theorem shows_band {r : Int × Int × Int × Int} {size : Int} (hr : bandRect x0 y0 x1 y1 size = r) (hleft : 0 ≤ r.1)
    (htop : 0 ≤ r.2.1) (colour : Half) (x y : Int) :
    Shows c o (band c o x0 y0 x1 y1 colour size) x y ↔
      inBounds c o x y = true ∧ r.1 ≤ x ∧ r.2.1 ≤ y ∧ x ≤ r.2.2.1 ∧ y ≤ r.2.2.2 := by
  simp only [Shows, mem_band hr, and_assoc, exists_and_left, exists_eq_left, Draw.shown, Draw.covers, winOK, inBounds,
    Bool.and_eq_true, decide_eq_true_eq]
  omega

/-- The band of a horizontal or vertical line is `size` pixels down or to the right of its segment. -/
theorem shows_band_of_axis (haxis : (x0 = x1 ∧ y0 ≠ y1) ∨ (x0 ≠ x1 ∧ y0 = y1)) (hx0 : 0 ≤ x0) (hy0 : 0 ≤ y0)
    (hx1 : 0 ≤ x1) (hy1 : 0 ≤ y1) (fg : Half) (size x y : Int) :
    Shows c o (band c o x0 y0 x1 y1 fg size) x y ↔ inBounds c o x y = true ∧ min x0 x1 ≤ x ∧ min y0 y1 ≤ y ∧
      x ≤ max x0 x1 + (if x0 = x1 then size - 1 else 0) ∧ y ≤ max y0 y1 + (if y0 = y1 then size - 1 else 0) := by
  rcases haxis with ⟨hx, hy⟩ | ⟨hx, hy⟩
  · rw [shows_band (if_neg hy) (by dsimp only; omega) (by dsimp only; omega), if_pos hx, if_neg hy]
    exact and_congr_right fun _ => by dsimp only; omega
  · rw [shows_band (if_pos hy) (by dsimp only; omega) (by dsimp only; omega), if_neg hx, if_pos hy]
    exact and_congr_right fun _ => by dsimp only; omega

/-- A stamp of size 1 is its anchor. -/
theorem footprint_one (x y : Int) (ds : DotStyle) : footprint x y 1 ds = [(x, y)] := by
  have hspan : span (stampLow 1 ds) (1 - 1) = [0] := by cases ds <;> decide
  rw [footprint, hspan]
  simp

/-- The stamps of a solid BRES of size 1 cover the points of the line that are on the panel. -/
theorem shows_bres_one (fg bg : Half) (ds : DotStyle) (x y : Int) :
    Shows c o (bres c o x0 y0 x1 y1 fg bg 1 .solid ds) x y ↔
      inBounds c o x y = true ∧ (x, y) ∈ bresPoints x0 y0 x1 y1 := by
  have hstamp (p : Int × Int) (d : Draw) :
      d ∈ stamp c o p.1 p.2 fg 1 ds ↔ inBounds c o p.1 p.2 = true ∧ d = .pixel p.1 p.2 fg := by
    rw [stamp, footprint_one]
    split <;> simp_all
  rw [bres, dotPattern_solid, List.flatMap_map]
  simp only [Shows, List.mem_flatMap, Bool.false_eq_true, if_false, hstamp]
  constructor
  · rintro ⟨_, ⟨p, hp, hin, rfl⟩, _, hcovers⟩
    simp only [Draw.covers, Bool.and_eq_true, decide_eq_true_eq] at hcovers
    obtain ⟨rfl, rfl⟩ := hcovers
    exact ⟨hin, hp⟩
  · rintro ⟨hin, hp⟩
    exact ⟨_, ⟨(x, y), hp, hin, rfl⟩, hin, by simp [Draw.covers]⟩

end Shows

/-- Settles O51: both paths cover the segment at size 1, and the band its rectangle at any size. -/
theorem fastPathAgreesWithBresenham : Obligations.FastPathAgreesWithBresenham := by
  intro c o x0 y0 x1 y1 fg bg ds haxis covered
  have haxis' : ((x0 : Int) = x1 ∧ (y0 : Int) ≠ y1) ∨ ((x0 : Int) ≠ x1 ∧ (y0 : Int) = y1) := by omega
  have hband (size x y : Int) := shows_band_of_axis (c := c) (o := o) haxis' (Int.natCast_nonneg x0)
    (Int.natCast_nonneg y0) (Int.natCast_nonneg x1) (Int.natCast_nonneg y1) fg size x y
  have htakes : takesBand x0 y0 x1 y1 .solid = true := (takesBand_iff ..).2 ⟨rfl, by omega⟩
  refine ⟨nodup_bresPoints .., length_band_le fg 1, fun x y => ⟨(hband 1 x y).trans ?_, ?_, fun size _ => ?_⟩⟩
  · simp only [sub_self, ite_self, add_zero]
    exact and_congr_right fun _ => by omega
  · refine (shows_bres_one fg bg ds x y).trans (and_congr_right fun _ => ?_)
    exact mem_bresPoints_of_axis _ _ _ _ haxis' (x, y)
  · rw [line, if_pos htakes]
    refine ⟨(hband size x y).trans ?_, length_band_le fg size⟩
    simp only [Nat.cast_inj]

end Sys2Proof.Machine

/-! Circles: the loop as the iteration of its step, the outline and the filled set in the absolute coordinates about
the centre, and the filled set as the outline spanned row by row. -/

namespace Sys2Proof.Machine

/-! ### The loop (rule R199) -/

/-- One iteration of CIRC's loop on its point and error. -/
def circleStep (q : (Int × Int) × Int) : (Int × Int) × Int :=
  ((q.1.1 + 1, if q.2 < 0 then q.1.2 else q.1.2 - 1),
    if q.2 < 0 then q.2 + 4 * q.1.1 + 6 else q.2 + 4 * (q.1.1 - q.1.2) + 10)

/-- Once x has passed y it stays past it. -/
theorem circleStep_iterate_past (k : Nat) : ∀ q : (Int × Int) × Int, q.1.2 < q.1.1 →
    (circleStep^[k] q).1.2 < (circleStep^[k] q).1.1 := by
  induction k with
  | zero => exact fun q h => h
  | succ k ih =>
    refine fun q h => ih (circleStep q) ?_
    rw [circleStep]
    dsimp only
    split <;> omega

/-- The loop's points are those of its iterations, up to the first with x > y or the bound. -/
theorem getElem?_circleLoop (fuel : Nat) : ∀ (k : Nat) (q : (Int × Int) × Int),
    (circleLoop fuel q.1.1 q.1.2 q.2)[k]? =
      if k < fuel ∧ (circleStep^[k] q).1.1 ≤ (circleStep^[k] q).1.2 then some (circleStep^[k] q).1 else none := by
  induction fuel with
  | zero => simp [circleLoop]
  | succ fuel ih =>
    intro k q
    rw [circleLoop]
    by_cases hgo : q.1.1 ≤ q.1.2
    · rw [if_pos hgo]
      cases k with
      | zero => simp [hgo]
      | succ k =>
        rw [List.getElem?_cons_succ, Function.iterate_succ_apply]
        exact (ih k (circleStep q)).trans (if_congr (and_congr_left' Nat.succ_lt_succ_iff.symm) rfl rfl)
    · have hpast := circleStep_iterate_past k q (by omega)
      rw [if_neg hgo, if_neg (by omega)]
      rfl

/-- Point and error of CIRC's loop after `k` iterations. -/
def circleState (r k : Nat) : (Int × Int) × Int := circleStep^[k] ((0, (r : Int)), 3 - 2 * (r : Int))

theorem circleState_succ (r k : Nat) : circleState r (k + 1) = circleStep (circleState r k) :=
  Function.iterate_succ_apply' ..

/-- x counts the iterations. -/
theorem circleState_x (r k : Nat) : (circleState r k).1.1 = k := by
  induction k with
  | zero => rfl
  | succ k ih => rw [circleState_succ, circleStep, ih, Nat.cast_succ]

/-- y after `k` iterations. -/
def circleY (r k : Nat) : Int := (circleState r k).1.2

theorem circleState_point (r k : Nat) : (circleState r k).1 = ((k : Int), circleY r k) :=
  Prod.ext (circleState_x r k) rfl

@[simp] theorem circleY_zero (r : Nat) : circleY r 0 = r := rfl

theorem circleY_succ (r k : Nat) :
    circleY r (k + 1) = if (circleState r k).2 < 0 then circleY r k else circleY r k - 1 := by
  rw [circleY, circleState_succ, circleStep]
  rfl

/-- y stays or falls by 1. -/
theorem circleY_succ_cases (r k : Nat) :
    circleY r (k + 1) = circleY r k ∨ circleY r (k + 1) = circleY r k - 1 := by
  rw [circleY_succ]
  split
  · exact .inl rfl
  · exact .inr rfl

theorem antitone_circleY (r : Nat) : Antitone (circleY r) :=
  antitone_nat_of_succ_le fun k => by
    have hnext := circleY_succ_cases r k
    omega

theorem circleY_le (r k : Nat) : circleY r k ≤ r := antitone_circleY r (Nat.zero_le k)

/-- With enough bound the loop's points are those of the iterations with x ≤ y. -/
theorem getElem?_circleLoop_start {r n : Nat} (hn : r + 1 ≤ n) (k : Nat) :
    (circleLoop n 0 r (3 - 2 * (r : Int)))[k]? =
      if (k : Int) ≤ circleY r k then some ((k : Int), circleY r k) else none := by
  refine (getElem?_circleLoop n k ((0, (r : Int)), 3 - 2 * (r : Int))).trans ?_
  rw [← circleState, circleState_point]
  have hle := circleY_le r k
  exact if_congr (by dsimp only; omega) rfl rfl

theorem getElem?_circleSteps (r k : Nat) :
    (circleSteps r)[k]? = if (k : Int) ≤ circleY r k then some ((k : Int), circleY r k) else none :=
  getElem?_circleLoop_start le_rfl k

theorem mem_circleSteps {r : Nat} {q : Int × Int} :
    q ∈ circleSteps r ↔ ∃ k : Nat, (k : Int) ≤ circleY r k ∧ q = ((k : Int), circleY r k) := by
  simp only [List.mem_iff_getElem?, getElem?_circleSteps, Option.ite_none_right_eq_some, Option.some.injEq,
    eq_comm (a := q)]

/-- A larger bound changes nothing. -/
theorem circleLoop_eq_circleSteps {r n : Nat} (hn : r + 1 ≤ n) :
    circleLoop n 0 r (3 - 2 * (r : Int)) = circleSteps r :=
  List.ext_getElem? fun k => (getElem?_circleLoop_start hn k).trans (getElem?_circleSteps r k).symm

/-- Rule R199's test and updates, from each point to the next. -/
theorem circleSteps_follow_rule {r k : Nat} {x y : Int} (h : (circleSteps r)[k]? = some (x, y)) :
    (circleState r (k + 1)).2 = (if (circleState r k).2 < 0 then (circleState r k).2 + 4 * x + 6
      else (circleState r k).2 + 4 * (x - y) + 10) ∧
    (circleSteps r)[k + 1]? =
      if x + 1 ≤ (if (circleState r k).2 < 0 then y else y - 1) then
        some (x + 1, if (circleState r k).2 < 0 then y else y - 1) else none := by
  rw [getElem?_circleSteps, Option.ite_none_right_eq_some, Option.some.injEq, Prod.mk.injEq] at h
  obtain ⟨_, rfl, rfl⟩ := h
  rw [circleState_succ, circleStep, circleState_point, getElem?_circleSteps, circleY_succ, Nat.cast_succ]
  exact ⟨rfl, rfl⟩

/-! ### The point sets about the centre (rule R211) -/

/-- The offset (a, b) from the centre is one of the eight mirror images of (x, y). -/
def Mirrors (a b x y : Int) : Prop := (|a| = x ∧ |b| = y) ∨ (|a| = y ∧ |b| = x)

/-- The two sign changes and the swap of the axes, which generate the eight reflections. -/
theorem Mirrors.reflect {a b x y : Int} (h : Mirrors a b x y) :
    Mirrors (-a) b x y ∧ Mirrors a (-b) x y ∧ Mirrors b a x y := by
  simp only [Mirrors, abs_neg] at h ⊢
  exact ⟨h, h, h.symm.imp And.symm And.symm⟩

theorem mem_octants {xc yc x y : Int} (hx : 0 ≤ x) (hy : 0 ≤ y) (a b : Int) :
    (xc + a, yc + b) ∈ octants xc yc x y ↔ Mirrors a b x y := by
  simp only [octants, Mirrors, abs_eq hx, abs_eq hy, List.mem_cons, List.not_mem_nil, or_false, Prod.mk.injEq,
    sub_eq_add_neg, add_right_inj, and_or_left, or_and_right, or_assoc]
  constructor <;> rintro (h | h | h | h | h | h | h | h) <;> simp only [h, and_self, true_or, or_true]

section Circle

variable {xc yc : Int} {r : Nat} {a b : Int}

theorem mem_strokedPoints : (xc + a, yc + b) ∈ strokedPoints xc yc r ↔
    ∃ k : Nat, (k : Int) ≤ circleY r k ∧ Mirrors a b k (circleY r k) := by
  simp only [strokedPoints, List.mem_flatMap, mem_circleSteps]
  constructor
  · rintro ⟨_, ⟨k, hk, rfl⟩, hmem⟩
    exact ⟨k, hk, (mem_octants (by omega) (by omega) a b).1 hmem⟩
  · rintro ⟨k, hk, hmirrors⟩
    exact ⟨_, ⟨k, hk, rfl⟩, (mem_octants (by omega) (by omega) a b).2 hmirrors⟩

theorem mem_filledPoints : (xc + a, yc + b) ∈ filledPoints xc yc r ↔
    ∃ (k : Nat) (t : Int), k ≤ t ∧ t ≤ circleY r k ∧ Mirrors a b k t := by
  simp only [filledPoints, List.mem_flatMap, mem_circleSteps, mem_span]
  constructor
  · rintro ⟨_, ⟨k, _, rfl⟩, t, ⟨hkt, hty⟩, hmem⟩
    exact ⟨k, t, hkt, hty, (mem_octants (by omega) (by dsimp only at hkt; omega) a b).1 hmem⟩
  · rintro ⟨k, t, hkt, hty, hmirrors⟩
    exact ⟨_, ⟨k, by omega, rfl⟩, t, ⟨hkt, hty⟩, (mem_octants (by omega) (by omega) a b).2 hmirrors⟩

/-- The outline as the statement of R211 has it. -/
theorem mem_strokedPoints_iff_steps : (xc + a, yc + b) ∈ strokedPoints xc yc r ↔
    ∃ q ∈ circleSteps r, Mirrors a b q.1 q.2 := by
  rw [mem_strokedPoints]
  constructor
  · rintro ⟨k, hk, hmirrors⟩
    exact ⟨_, mem_circleSteps.2 ⟨k, hk, rfl⟩, hmirrors⟩
  · rintro ⟨q, hq, hmirrors⟩
    obtain ⟨k, hk, rfl⟩ := mem_circleSteps.1 hq
    exact ⟨k, hk, hmirrors⟩

/-- The outline is unchanged by the reflections about the centre. -/
theorem strokedPoints_symmetric (h : (xc + a, yc + b) ∈ strokedPoints xc yc r) :
    (xc - a, yc + b) ∈ strokedPoints xc yc r ∧ (xc + a, yc - b) ∈ strokedPoints xc yc r ∧
      (xc + b, yc + a) ∈ strokedPoints xc yc r := by
  simp only [sub_eq_add_neg, mem_strokedPoints] at h ⊢
  obtain ⟨k, hk, hmirrors⟩ := h
  obtain ⟨hx, hy, hswap⟩ := hmirrors.reflect
  exact ⟨⟨k, hk, hx⟩, ⟨k, hk, hy⟩, ⟨k, hk, hswap⟩⟩

/-- The filled set is unchanged by the reflections about the centre. -/
theorem filledPoints_symmetric (h : (xc + a, yc + b) ∈ filledPoints xc yc r) :
    (xc - a, yc + b) ∈ filledPoints xc yc r ∧ (xc + a, yc - b) ∈ filledPoints xc yc r ∧
      (xc + b, yc + a) ∈ filledPoints xc yc r := by
  simp only [sub_eq_add_neg, mem_filledPoints] at h ⊢
  obtain ⟨k, t, hkt, hty, hmirrors⟩ := h
  obtain ⟨hx, hy, hswap⟩ := hmirrors.reflect
  exact ⟨⟨k, t, hkt, hty, hx⟩, ⟨k, t, hkt, hty, hy⟩, ⟨k, t, hkt, hty, hswap⟩⟩

/-! ### The disk, row by row -/

/-- y falls by single steps, so it takes every value between two of its values. -/
theorem exists_circleY_eq {t : Int} {m n : Nat} (hmn : m ≤ n) (hn : circleY r n ≤ t) (hm : t ≤ circleY r m) :
    ∃ k, m ≤ k ∧ k ≤ n ∧ circleY r k = t := by
  induction n, hmn using Nat.le_induction with
  | base => exact ⟨m, le_rfl, le_rfl, by omega⟩
  | succ n hmn ih =>
    by_cases hhere : circleY r n ≤ t
    · obtain ⟨k, hmk, hkn, hk⟩ := ih hhere
      exact ⟨k, hmk, by omega, hk⟩
    · have hnext := circleY_succ_cases r n
      exact ⟨n + 1, by omega, le_rfl, by omega⟩

/-- Each row a step's span reaches has a point of the outline at least as far out as the step's x. -/
theorem exists_outline_beyond {k : Nat} {t : Int} (hkt : k ≤ t) (hty : t ≤ circleY r k) :
    ∃ m : Int, k ≤ m ∧ ∃ j : Nat,
      (j : Int) ≤ circleY r j ∧ ((m = j ∧ t = circleY r j) ∨ (m = circleY r j ∧ t = j)) := by
  obtain ⟨n, rfl⟩ := Int.eq_ofNat_of_zero_le (by omega : 0 ≤ t)
  by_cases hrow : (n : Int) ≤ circleY r n
  · exact ⟨circleY r n, by omega, n, hrow, .inr ⟨rfl, rfl⟩⟩
  · obtain ⟨j, hkj, hjn, hj⟩ := exists_circleY_eq (n := n) (by omega) (by omega) hty
    exact ⟨j, by omega, j, by omega, .inl ⟨rfl, hj.symm⟩⟩

/-- A pixel is filled exactly when its row has a point of the outline at least as far from the middle. -/
theorem mem_filledPoints_iff_outline : (xc + a, yc + b) ∈ filledPoints xc yc r ↔
    ∃ m, |a| ≤ |m| ∧ (xc + m, yc + b) ∈ strokedPoints xc yc r := by
  simp only [mem_filledPoints, mem_strokedPoints]
  constructor
  · rintro ⟨k, t, hkt, hty, ⟨ha, hb⟩ | ⟨ha, hb⟩⟩
    · obtain ⟨m, hkm, j, hj, hmirrors⟩ := exists_outline_beyond hkt hty
      have hm : |m| = m := abs_of_nonneg (by omega)
      exact ⟨m, by omega, j, hj, by rwa [Mirrors, hm, hb]⟩
    · have hy : |circleY r k| = circleY r k := abs_of_nonneg (by omega)
      exact ⟨circleY r k, by omega, k, by omega, .inr ⟨hy, hb⟩⟩
  · rintro ⟨m, ham, j, hj, hmirrors⟩
    obtain ⟨n, hn⟩ := Int.eq_ofNat_of_zero_le (abs_nonneg a)
    rcases hmirrors with ⟨hm, hb⟩ | ⟨hm, hb⟩
    · have hfall := antitone_circleY r (show n ≤ j by omega)
      exact ⟨n, circleY r j, by omega, hfall, .inl ⟨hn, hb⟩⟩
    · rcases le_or_gt j n with hjn | hjn
      · exact ⟨j, |a|, by omega, by omega, .inr ⟨rfl, hb⟩⟩
      · have hfall := antitone_circleY r hjn.le
        exact ⟨n, j, by omega, by omega, .inl ⟨hn, hb⟩⟩

/-- The filled set is the outline spanned row by row. -/
theorem mem_filledPoints_iff_span : (xc + a, yc + b) ∈ filledPoints xc yc r ↔
    ∃ left right : Int, left ≤ a ∧ a ≤ right ∧
      (xc + left, yc + b) ∈ strokedPoints xc yc r ∧ (xc + right, yc + b) ∈ strokedPoints xc yc r := by
  rw [mem_filledPoints_iff_outline]
  constructor
  · rintro ⟨m, ham, hm⟩
    obtain ⟨hleft, hright⟩ := abs_le.1 ham
    refine ⟨-|m|, |m|, hleft, hright, ?_, ?_⟩ <;>
      simpa only [mem_strokedPoints, Mirrors, abs_neg, abs_abs] using hm
  · rintro ⟨left, right, hleft, hright, hl, hr⟩
    rcases le_max_iff.1 (abs_le_max_abs_abs hleft hright) with h | h
    · exact ⟨left, h, hl⟩
    · exact ⟨right, h, hr⟩

/-- The filled set has the rows within the radius and no other. -/
theorem exists_mem_filledPoints_iff : (∃ a, (xc + a, yc + b) ∈ filledPoints xc yc r) ↔ b.natAbs ≤ r := by
  simp only [mem_filledPoints]
  constructor
  · rintro ⟨a, k, t, hkt, hty, hmirrors⟩
    have hle := circleY_le r k
    rw [Mirrors, Int.abs_eq_natAbs b] at hmirrors
    omega
  · intro hb
    refine ⟨0, 0, |b|, abs_nonneg b, ?_, .inl ⟨abs_zero, rfl⟩⟩
    rw [circleY_zero, Int.abs_eq_natAbs]
    omega

end Circle

/-- Settles O53: the loop's iterations give its points, and both point sets are known by their distances from the
centre along each axis. -/
theorem circlesAreSymmetric : Obligations.CirclesAreSymmetric := by
  intro xc yc r
  refine ⟨fun n hn => circleLoop_eq_circleSteps hn, ?_,
    (getElem?_circleSteps r 0).trans (if_pos (Int.natCast_nonneg r)),
    ⟨fun k => (circleState r k).2, rfl, fun k x y h => circleSteps_follow_rule h⟩,
    fun a b => mem_strokedPoints_iff_steps, fun a b => mem_filledPoints_iff_span,
    fun b => exists_mem_filledPoints_iff⟩
  rw [List.forall_mem_cons, List.forall_mem_singleton]
  exact ⟨fun a b => strokedPoints_symmetric, fun a b => filledPoints_symmetric⟩

end Sys2Proof.Machine

/-! The mathematics of the touch sequencer: raw codes, and the outlier-rejecting average. -/

namespace Sys2Proof.Machine

/-! ### Raw codes (rules R231, R232) -/

theorem rawCode_eq (hi lo : Byte) : rawCode hi lo = (256 * hi.toNat + lo.toNat) / 8 := by
  have happend : (hi ++ lo : Half).toNat = 256 * hi.toNat + lo.toNat := by
    rw [BitVec.toNat_append, ← Nat.shiftLeft_add_eq_or_of_lt lo.isLt, Nat.shiftLeft_eq]
    omega
  rw [rawCode, BitVec.toNat_ushiftRight, happend, Nat.shiftRight_eq_div_pow]

/-- Settles O54: a code is the response without its three low bits, and either half of TRAW has room for it. -/
theorem rawCodesHaveThirteenBits : Obligations.RawCodesHaveThirteenBits := by
  refine ⟨fun hi lo => ⟨rawCode_eq hi lo, rawCode_le hi lo⟩, fun x y hx hy => ?_⟩
  rw [packRaw, lowHalf_packHalves, highHalf_packHalves]
  exact ⟨Nat.mod_eq_of_lt (by omega), Nat.mod_eq_of_lt (by omega)⟩

/-! ### The least and the greatest sample (rule R233) -/

theorem le_least {lo : Nat} : ∀ {vs : List Nat}, vs ≠ [] → (∀ v ∈ vs, lo ≤ v) → lo ≤ least vs
  | [_], _, h => h _ List.mem_cons_self
  | _ :: u :: ws, _, h => by
    obtain ⟨hv, htail⟩ := List.forall_mem_cons.1 h
    exact Nat.le_min.2 ⟨hv, le_least (List.cons_ne_nil u ws) htail⟩

theorem least_le_of_mem {v : Nat} : ∀ {vs : List Nat}, v ∈ vs → least vs ≤ v
  | [u], h => (List.mem_singleton.1 h).ge
  | u :: w :: ws, h => by
    rcases List.mem_cons.1 h with rfl | htail
    · exact Nat.min_le_left _ _
    · exact (Nat.min_le_right _ _).trans (least_le_of_mem htail)

theorem le_greatest_of_mem {v : Nat} {vs : List Nat} (h : v ∈ vs) : v ≤ greatest vs := by
  induction vs with
  | nil => cases h
  | cons u us ih =>
    rcases List.mem_cons.1 h with rfl | htail
    · exact Nat.le_max_left _ _
    · exact (ih htail).trans (Nat.le_max_right _ _)

/-- A sample that bounds all from below is the least. -/
theorem least_eq {lo : Nat} {vs : List Nat} (hmem : lo ∈ vs) (h : ∀ v ∈ vs, lo ≤ v) : least vs = lo :=
  (least_le_of_mem hmem).antisymm (le_least (List.ne_nil_of_mem hmem) h)

/-- A sample that bounds all from above is the greatest. -/
theorem greatest_eq {hi : Nat} {vs : List Nat} (hmem : hi ∈ vs) (h : ∀ v ∈ vs, v ≤ hi) : greatest vs = hi :=
  (greatest_le hi vs h).antisymm (le_greatest_of_mem hmem)

/-! ### The average (rules R233, R234) -/

theorem trimmedMean_eq {n lo hi : Nat} {vs : List Nat} (hlo : lo ∈ vs) (hhi : hi ∈ vs)
    (h : ∀ v ∈ vs, lo ≤ v ∧ v ≤ hi) : trimmedMean n vs = (vs.sum - lo - hi) / (n - 2) := by
  rw [trimmedMean, least_eq hlo fun v hv => (h v hv).1, greatest_eq hhi fun v hv => (h v hv).2]

theorem exists_bounds {vs : List Nat} (h : vs ≠ []) : ∃ lo ∈ vs, ∃ hi ∈ vs, ∀ v ∈ vs, lo ≤ v ∧ v ≤ hi := by
  have hne : vs.toFinset.Nonempty := List.toFinset_nonempty_iff vs |>.2 h
  obtain ⟨lo, hlo, hmin⟩ := vs.toFinset.exists_min_image id hne
  obtain ⟨hi, hhi, hmax⟩ := vs.toFinset.exists_max_image id hne
  simp only [List.mem_toFinset, id] at hlo hmin hhi hmax
  exact ⟨lo, hlo, hi, hhi, fun v hv => ⟨hmin v hv, hmax v hv⟩⟩

/-- The order of the samples does not matter (rule R234). -/
theorem trimmedMean_perm (n : Nat) {us vs : List Nat} (h : us.Perm vs) : trimmedMean n us = trimmedMean n vs := by
  by_cases hvs : vs = []
  · subst hvs
    rw [h.eq_nil]
  · obtain ⟨lo, hlo, hi, hhi, hbounds⟩ := exists_bounds hvs
    rw [trimmedMean_eq hlo hhi hbounds,
      trimmedMean_eq (h.mem_iff.2 hlo) (h.mem_iff.2 hhi) fun v hv => hbounds v (h.mem_iff.1 hv), h.sum_eq]

/-- Of two samples or more, one least and one greatest can be taken out, and the mean is that of the rest. -/
theorem exists_trimmed {n : Nat} {vs : List Nat} (hn : 2 ≤ vs.length) : ∃ lo hi ws,
    vs.Perm (lo :: hi :: ws) ∧ trimmedMean n vs = ws.sum / (n - 2) := by
  obtain ⟨lo, hlo, hi, hhi, hbounds⟩ := exists_bounds (List.ne_nil_of_length_pos (Nat.zero_lt_of_lt hn))
  have hhi' : hi ∈ vs.erase lo := by
    by_cases heq : hi = lo
    · obtain ⟨u, hu⟩ := List.exists_mem_of_length_pos (l := vs.erase lo) (by rw [List.length_erase_of_mem hlo]; omega)
      obtain ⟨hlou, huhi⟩ := hbounds u (List.mem_of_mem_erase hu)
      rwa [show hi = u by omega]
    · exact (List.mem_erase_of_ne heq).2 hhi
  have hperm := (List.perm_cons_erase hlo).trans ((List.perm_cons_erase hhi').cons lo)
  refine ⟨lo, hi, _, hperm, ?_⟩
  rw [trimmedMean_eq hlo hhi hbounds, hperm.sum_eq, List.sum_cons, List.sum_cons, Nat.add_sub_cancel_left,
    Nat.add_sub_cancel_left]

/-- No mean lies below a bound of its samples (rule R234). -/
theorem le_trimmedMean {lo n : Nat} {vs : List Nat} (hn : 3 ≤ n) (hlen : vs.length = n) (h : ∀ v ∈ vs, lo ≤ v) :
    lo ≤ trimmedMean n vs := by
  obtain ⟨l, g, ws, hperm, hmean⟩ := exists_trimmed (n := n) (vs := vs) (by omega)
  have hcount : ws.length = n - 2 := by
    have hlen' := hperm.length_eq
    simp only [List.length_cons] at hlen'
    omega
  have hsum : ws.length • lo ≤ ws.sum := List.card_nsmul_le_sum ws lo fun v hv =>
    h v (hperm.mem_iff.2 (List.mem_cons_of_mem _ (List.mem_cons_of_mem _ hv)))
  rw [hmean, Nat.le_div_iff_mul_le (by omega), mul_comm, ← hcount]
  exact hsum

/-- Settles O55: the mean is that of the samples left when one least and one greatest are out. -/
theorem averagesLieWithinTheSamples : Obligations.AveragesLieWithinTheSamples := by
  intro n vs hn hlen
  have hbetween (lo hi : Nat) (h : ∀ v ∈ vs, lo ≤ v ∧ v ≤ hi) : lo ≤ trimmedMean n vs ∧ trimmedMean n vs ≤ hi :=
    ⟨le_trimmedMean hn hlen fun v hv => (h v hv).1, trimmedMean_le hi n vs hlen.le fun v hv => (h v hv).2⟩
  refine ⟨fun v h => ?_, hbetween, fun us => trimmedMean_perm n, fun lo hlo hi hhi => trimmedMean_eq hlo hhi,
    fun xys => ⟨fun h => h ▸ rfl, fun h => h ▸ rfl⟩⟩
  obtain ⟨hlow, hhigh⟩ := hbetween v v fun u hu => ⟨(h u hu).ge, (h u hu).le⟩
  exact hhigh.antisymm hlow

end Sys2Proof.Machine

/-! The whole effect of the touch commands: the bytes the engine draws from outside while it makes a procedure's events,
the raw samples those bytes are, and what each command commits of them. -/

namespace Sys2Proof.Machine

/-! ### The bytes a run of slots draws (rules R41, R97) -/

/-- Slots that sample no pen make these events when they draw these bytes. -/
inductive Answers : List Slot → List Byte → List Event → Prop
  | nil : Answers [] [] []
  | emit (e : Event) {slots : List Slot} {bs : List Byte} {es : List Event} (h : Answers slots bs es) :
      Answers (.emit e :: slots) bs (e :: es)
  | receive (b : Byte) {slots : List Slot} {bs : List Byte} {es : List Event} (h : Answers slots bs es) :
      Answers (.receive :: slots) (b :: bs) (.trx b :: es)

/-- Known events draw no byte. -/
theorem answers_emits {es fs : List Event} {bs : List Byte} (h : Answers (es.map Slot.emit) bs fs) :
    bs = [] ∧ fs = es := by
  induction es generalizing fs with
  | nil =>
    cases h
    exact ⟨rfl, rfl⟩
  | cons e es ih =>
    cases h with
    | emit _ h =>
      obtain ⟨hbs, rfl⟩ := ih h
      exact ⟨hbs, rfl⟩

/-- Slots in sequence draw and make what each part does. -/
theorem answers_append {slots slots' : List Slot} {bs : List Byte} {es : List Event}
    (h : Answers (slots ++ slots') bs es) : ∃ bs₁ es₁ bs₂ es₂,
      Answers slots bs₁ es₁ ∧ Answers slots' bs₂ es₂ ∧ bs = bs₁ ++ bs₂ ∧ es = es₁ ++ es₂ := by
  induction slots generalizing bs es with
  | nil => exact ⟨[], [], bs, es, .nil, h, rfl, rfl⟩
  | cons slot slots ih =>
    cases h with
    | emit e h =>
      obtain ⟨bs₁, es₁, bs₂, es₂, h₁, h₂, rfl, rfl⟩ := ih h
      exact ⟨bs₁, e :: es₁, bs₂, es₂, h₁.emit e, h₂, rfl, rfl⟩
    | receive b h =>
      obtain ⟨bs₁, es₁, bs₂, es₂, h₁, h₂, rfl, rfl⟩ := ih h
      exact ⟨b :: bs₁, .trx b :: es₁, bs₂, es₂, h₁.receive b, h₂, rfl, rfl⟩

/-- The machine running `r`, with these response bytes and pen levels given. -/
def State.drawing (r : Running) (touch : List Byte) (pens : List Pen) (s : State) : State :=
  { s with engine := .run r, touchIn := touch, penIn := pens }

/-- The running command once it has drawn these bytes and made these events, its last. -/
def Running.drawn (c : Config) (bs : List Byte) (es : List Event) (r : Running) : Running :=
  { r with todo := [], rx := r.rx ++ bs, ramwr := r.ramwr || beginsWrite c es }

theorem Running.drawn_nil (c : Config) {r : Running} (h : r.todo = []) : r.drawn c [] [] = r := by
  cases r
  simp_all [Running.drawn, beginsWrite]

theorem Running.drawn_emit (c : Config) (slots : List Slot) (e : Event) (bs : List Byte) (es : List Event)
    (r : Running) : Running.drawn c bs es ({ r with todo := slots }.noteRamwr c e) = r.drawn c bs (e :: es) := by
  simp [noteRamwr_eq, Running.drawn, beginsWrite, Bool.or_assoc]

theorem Running.drawn_receive (c : Config) (slots : List Slot) (b : Byte) (bs : List Byte) (es : List Event)
    (r : Running) : Running.drawn c bs es { r with todo := slots, rx := r.rx ++ [b] } =
      r.drawn c (b :: bs) (.trx b :: es) := by
  have hno : (Event.trx b == .ptx .command c.regRamwr) = false := beq_eq_false_iff_ne.2 (by simp)
  simp [Running.drawn, beginsWrite, hno]

theorem exists_engineSteps_after {s t : State} (h : engineStep s = t) {k n : Nat} (hn : k + 1 < n) :
    ∃ m, k < m ∧ engineSteps n s = engineSteps m t := by
  obtain ⟨m, rfl⟩ := Nat.exists_eq_add_one_of_ne_zero (Nat.ne_zero_of_lt hn)
  exact ⟨m, Nat.lt_of_succ_lt_succ hn, by rw [engineSteps_succ, h]⟩

/-- The engine makes the events of a command that samples no more pen, and commits it: the bytes it draws are those
given, as far as any are. -/
theorem engineSteps_drawing (pens : List Pen) (slots : List Slot) (hpen : .samplePen ∉ slots) :
    ∀ (s : State) (r : Running) (touch : List Byte), r.todo = slots → ∃ bs es, Answers slots bs es ∧
      bs.take touch.length = touch.take bs.length ∧ ∀ n, slots.length < n →
        engineSteps n (s.drawing r touch pens) =
          commit (r.drawn s.cfg bs es)
            ((s.afterEvents es).drawing (r.drawn s.cfg bs es) (touch.drop bs.length) pens) := by
  induction slots with
  | nil =>
    intro s r touch htodo
    refine ⟨[], [], .nil, by simp, fun n hn => ?_⟩
    obtain ⟨m, rfl⟩ := Nat.exists_eq_add_one_of_ne_zero hn.ne'
    rw [engineSteps_succ, engineStep_commit _ r rfl htodo, engineSteps_idle _ _ rfl, Running.drawn_nil _ htodo]
    rfl
  | cons slot slots ih =>
    intro s r touch htodo
    obtain ⟨hslot, hslots⟩ := not_or.1 (mt List.mem_cons.2 hpen)
    have hstep := engineStep_slot (s.drawing r touch pens) r slot slots rfl htodo
    cases slot with
    | samplePen => exact absurd rfl hslot
    | emit e =>
      obtain ⟨bs, es, hanswers, htake, hrun⟩ := ih hslots (s.performEvent e)
        ({ r with todo := slots }.noteRamwr s.cfg e) touch (by simp [noteRamwr_eq])
      refine ⟨bs, e :: es, hanswers.emit e, htake, fun n hn => ?_⟩
      obtain ⟨m, hm, hsucc⟩ := exists_engineSteps_after hstep hn
      rw [hsucc, ← Running.drawn_emit s.cfg slots]
      exact hrun m hm
    | receive =>
      obtain ⟨b, hb⟩ : ∃ b, (s.drawing r touch pens).nextTouchByte = b := ⟨_, rfl⟩
      obtain ⟨bs, es, hanswers, htake, hrun⟩ := ih hslots (s.performEvent (.trx b))
        { r with todo := slots, rx := r.rx ++ [b] } touch.tail rfl
      refine ⟨b :: bs, .trx b :: es, hanswers.receive b, ?_, fun n hn => ?_⟩
      · cases touch with
        | nil => simp
        | cons t ts =>
          obtain rfl : t = b := hb
          exact congrArg (t :: ·) htake
      · rw [State.performSlot, hb] at hstep
        obtain ⟨m, hm, hsucc⟩ := exists_engineSteps_after hstep hn
        rw [hsucc, ← Running.drawn_receive s.cfg slots, List.length_cons, ← List.drop_tail]
        exact hrun m hm

/-! ### Raw samples (rules R231, R233) -/

@[simp] theorem bytesOf_cons (q : RawBytes) (qs : List RawBytes) : bytesOf (q :: qs) = q.toList ++ bytesOf qs :=
  List.flatMap_cons

@[simp] theorem bytesOf_append (ps qs : List RawBytes) : bytesOf (ps ++ qs) = bytesOf ps ++ bytesOf qs :=
  List.flatMap_append

theorem length_bytesOf (qs : List RawBytes) : (bytesOf qs).length = 4 * qs.length := by
  induction qs with
  | nil => rfl
  | cons q qs ih =>
    rw [bytesOf_cons, List.length_append, ih, List.length_cons, Nat.mul_succ, Nat.add_comm]
    rfl

/-- The engine's samples of the bytes are the samples the bytes were taken as. -/
theorem samples_bytesOf (qs : List RawBytes) : samples (bytesOf qs) = qs.map RawBytes.sample := by
  induction qs with
  | nil => rfl
  | cons q qs ih => exact congrArg (q.sample :: ·) ih

/-- The slots sample no pen, and make the events of the `n` raw samples whose bytes they draw. -/
structure TakesSamples (slots : List Slot) (n : Nat) (events : List RawBytes → List Event) : Prop where
  noPen : .samplePen ∉ slots
  answers : ∀ {bs es}, Answers slots bs es →
    ∃ qs : List RawBytes, qs.length = n ∧ bs = bytesOf qs ∧ es = events qs

theorem takesSamples_emits (es : List Event) : TakesSamples (es.map Slot.emit) 0 fun _ => es where
  noPen := by simp
  answers h := ⟨[], rfl, answers_emits h⟩

theorem TakesSamples.append {slots slots' : List Slot} {m n : Nat} {f g : List RawBytes → List Event}
    (h : TakesSamples slots m f) (h' : TakesSamples slots' n g) :
    TakesSamples (slots ++ slots') (m + n) fun qs => f (qs.take m) ++ g (qs.drop m) where
  noPen := mt List.mem_append.1 (not_or.2 ⟨h.noPen, h'.noPen⟩)
  answers ha := by
    obtain ⟨_, _, _, _, h₁, h₂, rfl, rfl⟩ := answers_append ha
    obtain ⟨ps, rfl, rfl, rfl⟩ := h.answers h₁
    obtain ⟨qs, rfl, rfl, rfl⟩ := h'.answers h₂
    exact ⟨ps ++ qs, List.length_append, (bytesOf_append ps qs).symm, by simp⟩

theorem TakesSamples.congr {slots : List Slot} {n : Nat} {f g : List RawBytes → List Event} (h : TakesSamples slots n f)
    (hfg : ∀ qs : List RawBytes, qs.length = n → f qs = g qs) : TakesSamples slots n g where
  noPen := h.noPen
  answers ha := by
    obtain ⟨qs, hn, hbs, hes⟩ := h.answers ha
    exact ⟨qs, hn, hbs, hes.trans (hfg qs hn)⟩

/-- In an open TOUCH session the statements stay in it and take `n` raw samples. -/
structure Acquires (as : List Act) (n : Nat) (events : List RawBytes → List Event) : Prop where
  sess : sessionsAt ⟨false, true⟩ as = ⟨false, true⟩
  samples : TakesSamples (plan ⟨false, true⟩ as) n events

theorem Acquires.append {as bs : List Act} {m n : Nat} {f g : List RawBytes → List Event} (ha : Acquires as m f)
    (hb : Acquires bs n g) : Acquires (as ++ bs) (m + n) fun qs => f (qs.take m) ++ g (qs.drop m) where
  sess := by rw [sessionsAt_append, ha.sess, hb.sess]
  samples := by
    rw [plan_append, ha.sess]
    exact ha.samples.append hb.samples

theorem acquires_wait (t : Nat) : Acquires [.wait t] 0 fun _ => waitEvents t where
  sess := rfl
  samples := by
    rw [plan_wait, plan, List.append_nil]
    exact takesSamples_emits _

/-- The slots of one axis of RAWREAD: its command byte, its wait and its two response bytes (rule R231). -/
theorem plan_axisRead (c : Config) (cmd : Byte) : plan ⟨false, true⟩ (axisRead c cmd) =
    (Event.ttx cmd :: waitEvents c.tTsettle).map Slot.emit ++ [.receive, .receive] := by
  rw [axisRead, plan_emit, plan_wait]
  rfl

theorem answers_axisRead {c : Config} {cmd : Byte} {bs : List Byte} {es : List Event}
    (h : Answers (plan ⟨false, true⟩ (axisRead c cmd)) bs es) :
    ∃ hi lo, bs = [hi, lo] ∧ es = .ttx cmd :: waitEvents c.tTsettle ++ [.trx hi, .trx lo] := by
  rw [plan_axisRead] at h
  obtain ⟨_, _, _, _, h₁, h₂, rfl, rfl⟩ := answers_append h
  obtain ⟨rfl, rfl⟩ := answers_emits h₁
  cases h₂ with
  | receive hi h₂ =>
    cases h₂ with
    | receive lo h₂ =>
      cases h₂
      exact ⟨hi, lo, rfl, rfl⟩

/-- RAWREAD in an open session: one axis after the other (rule R231). -/
theorem plan_rawRead (c : Config) : plan ⟨false, true⟩ (rawRead c) =
    plan ⟨false, true⟩ (axisRead c c.touchCmdX) ++ plan ⟨false, true⟩ (axisRead c c.touchCmdY) :=
  plan_append (axisRead c c.touchCmdX) (axisRead c c.touchCmdY) ⟨false, true⟩

theorem acquires_rawRead (c : Config) : Acquires (rawRead c) 1 (avgEvents c) := by
  refine ⟨rfl, by simp [plan_rawRead, plan_axisRead], fun h => ?_⟩
  rw [plan_rawRead] at h
  obtain ⟨_, _, _, _, hx, hy, rfl, rfl⟩ := answers_append h
  obtain ⟨xh, xl, rfl, rfl⟩ := answers_axisRead hx
  obtain ⟨yh, yl, rfl, rfl⟩ := answers_axisRead hy
  exact ⟨[⟨xh, xl, yh, yl⟩], rfl, rfl, by simp [avgEvents, rawEvents]⟩

/-- AVG's samples, a wait between two of them and none after the last (rule R233). -/
theorem acquires_avgActs (c : Config) (n : Nat) : Acquires (avgActs c n) n (avgEvents c) := by
  induction n using avgActs.induct with
  | case1 =>
    exact ⟨rfl, (takesSamples_emits []).congr fun qs hqs => by rw [List.length_eq_zero_iff.1 hqs, avgEvents]⟩
  | case2 => exact acquires_rawRead c
  | case3 n ih =>
    obtain ⟨hsess, hsamples⟩ := ((acquires_rawRead c).append (acquires_wait c.tInter)).append ih
    rw [show 1 + 0 + (n + 1) = n + 2 by omega] at hsamples
    refine ⟨hsess, hsamples.congr fun qs hqs => ?_⟩
    match qs, hqs with
    | q :: q' :: qs, _ => simp [avgEvents]

/-- The events of TWICE: two averages back to back (rule R235). -/
def twiceEvents (c : Config) (qs : List RawBytes) : List Event :=
  avgEvents c (qs.take c.touchN) ++ avgEvents c (qs.drop c.touchN)

theorem acquires_twiceActs (c : Config) : Acquires (twiceActs c) (c.touchN + c.touchN) (twiceEvents c) :=
  (acquires_avgActs c c.touchN).append (acquires_avgActs c c.touchN)

/-! ### One TOUCH session (rules R77, R141) -/

/-- Statements that open a TOUCH session first and are then finished take their samples in that session. -/
theorem Acquires.session {as : List Act} {n : Nat} {events : List RawBytes → List Event} (h : Acquires as n events)
    (hopen : as.head? = some (.ensure .touch)) (hne : ∀ qs : List RawBytes, qs.length = n → events qs ≠ []) :
    TakesSamples (plan Sessions.closed (as ++ [.finish])) n fun qs => touchSession (events qs) := by
  obtain ⟨bs, rfl⟩ := List.head?_eq_some_iff.1 hopen
  have hplan : plan Sessions.closed (.ensure .touch :: bs ++ [.finish]) =
      [Event.opened .touch .slow].map Slot.emit ++ plan ⟨false, true⟩ (.ensure .touch :: bs) ++
        [Event.closed .touch].map Slot.emit := by
    have hfinish := plan_append (.ensure .touch :: bs) [.finish] ⟨false, true⟩
    rw [h.sess] at hfinish
    exact congrArg (_ :: ·) hfinish
  have hsession := ((takesSamples_emits [Event.opened .touch .slow]).append h.samples).append
    (takesSamples_emits [Event.closed .touch])
  rw [hplan]
  rw [Nat.zero_add, Nat.add_zero] at hsession
  refine hsession.congr fun qs hqs => ?_
  simp [touchSession, hne qs hqs, List.take_of_length_le hqs.le]

theorem avgEvents_ne_nil (c : Config) {qs : List RawBytes} (h : 0 < qs.length) : avgEvents c qs ≠ [] := by
  match qs with
  | [q] => simp [avgEvents, rawEvents]
  | q :: q' :: qs => simp [avgEvents, rawEvents]

theorem head?_avgActs (c : Config) {n : Nat} (h : 0 < n) : (avgActs c n).head? = some (.ensure .touch) := by
  match n with
  | 1 => rfl
  | n + 2 => rfl

theorem takesSamples_avgActs (c : Config) {n : Nat} (h : 0 < n) :
    TakesSamples (plan Sessions.closed (avgActs c n ++ [.finish])) n fun qs => touchSession (avgEvents c qs) :=
  (acquires_avgActs c n).session (head?_avgActs c h) fun _ hqs => avgEvents_ne_nil c (hqs ▸ h)

theorem takesSamples_twiceActs (c : Config) (h : 0 < c.touchN) :
    TakesSamples (plan Sessions.closed (twiceActs c ++ [.finish])) (c.touchN + c.touchN)
      fun qs => touchSession (twiceEvents c qs) := by
  refine (acquires_twiceActs c).session (by simp [twiceActs, head?_avgActs c h]) fun qs hqs => ?_
  have hfirst : 0 < (qs.take c.touchN).length := by rwa [List.length_take_of_le (by omega)]
  exact List.append_ne_nil_of_left_ne_nil (avgEvents_ne_nil c hfirst) _

/-! ### A touch command, from acceptance to commit (rules R38, R40) -/

/-- The command `i` after its last event, with the pen level and the bytes it has drawn. -/
def Running.sampled (c : Config) (i : Instr) (pen : Option Pen) (qs : List RawBytes) (es : List Event) : Running :=
  { cmd := i, todo := [], rx := bytesOf qs, pen := pen, ramwr := beginsWrite c es }

/-- A running command that draws only raw samples more takes them and commits. -/
theorem TakesSamples.commits {slots : List Slot} {n : Nat} {events : List RawBytes → List Event}
    (h : TakesSamples slots n events) (s : State) (i : Instr) (pen : Option Pen) (touch : List Byte) (pens : List Pen) :
    ∃ qs : List RawBytes, qs.length = n ∧ (bytesOf qs).take touch.length = touch.take (4 * n) ∧
      ∀ m, slots.length < m →
        engineSteps m (s.drawing { cmd := i, todo := slots, rx := [], pen := pen, ramwr := false } touch pens) =
          commit (Running.sampled s.cfg i pen qs (events qs))
            ((s.afterEvents (events qs)).drawing (Running.sampled s.cfg i pen qs (events qs))
              (touch.drop (4 * n)) pens) := by
  obtain ⟨bs, es, hanswers, htake, hrun⟩ := engineSteps_drawing pens slots h.noPen s
    { cmd := i, todo := slots, rx := [], pen := pen, ramwr := false } touch rfl
  obtain ⟨qs, rfl, rfl, rfl⟩ := h.answers hanswers
  rw [length_bytesOf] at htake hrun
  exact ⟨qs, rfl, htake, hrun⟩

/-- What is left of the given pen levels once this level was drawn, or none. -/
def pensLeft : Option Pen → List Pen → List Pen
  | none, pens => pens
  | some _, pens => pens.tail

/-- The state in which the touch command `i` commits after these events, with what is left of the given draws. -/
def State.sampled (i : Instr) (pen : Option Pen) (qs : List RawBytes) (es : List Event) (s : State) : State :=
  ((s.latch i).afterEvents es).drawing (Running.sampled s.cfg i pen qs es) (s.touchIn.drop (4 * qs.length))
    (pensLeft pen s.penIn)

/-- A command whose slots only draw raw samples is accepted, takes them and commits. -/
theorem TakesSamples.exec_commits {s : State} (hrest : s.atRest) {i : Instr} (hlegal : fieldsLegal i = true)
    (hneeds : needsReady i = false) {n : Nat} {events : List RawBytes → List Event}
    (h : TakesSamples (plan Sessions.closed (procedureOf i (s.latch i))) n events) :
    ∃ (t : State) (qs : List RawBytes), exec i s = .next t ∧ t.busy = true ∧ qs.length = n ∧
      (bytesOf qs).take s.touchIn.length = s.touchIn.take (4 * n) ∧
      t.settle = commit (Running.sampled s.cfg i none qs (events qs)) (s.sampled i none qs (events qs)) := by
  obtain ⟨hidle, hsess⟩ := hrest
  have hexec := exec_starts ((State.not_busy_iff s).2 hidle) hlegal (by simp [hneeds])
  rw [← hsess] at h
  obtain ⟨qs, rfl, htake, hrun⟩ := h.commits (s.latch i) i none s.touchIn s.penIn
  exact ⟨_, qs, hexec, rfl, rfl, htake, hrun _ (by simp [State.stepsLeft])⟩

/-- The state of the commit and the completed state differ only in what no event writes: ENG, STATUS and the given
draws. -/
theorem sampled_frame {s : State} (hidle : s.engine = .idle) (i : Instr) (pen : Option Pen) (qs : List RawBytes)
    (es : List Event) :
    ∃ log sess pins panel draws,
      s.sampled i pen qs es =
        { s.latch i with
          log := log, sess := sess, pins := pins, panel := panel, draws := draws
          engine := .run (Running.sampled s.cfg i pen qs es)
          touchIn := s.touchIn.drop (4 * qs.length)
          penIn := pensLeft pen s.penIn } ∧
      s.completed i es =
        { s.latch i with
          log := log, sess := sess, pins := pins, panel := panel, draws := draws
          engine := .idle
          status := { s.status with done := true } } := by
  obtain ⟨log, sess, pins, panel, draws, hframe⟩ := afterEvents_frame es (s.latch i)
  refine ⟨log, sess, pins, panel, draws, ?_, ?_⟩
  · rw [State.sampled, hframe, State.drawing]
  · rw [State.completed, hframe, ← hidle]
    rfl

/-! ### What the commits read of the bytes (rules R231, R233, R235) -/

theorem firstAverage_bytesOf (c : Config) (qs : List RawBytes) :
    firstAverage c.touchN (bytesOf qs) = averageOf c (qs.take c.touchN) := by
  rw [firstAverage, samples_bytesOf, ← List.map_take, averageOf]

theorem secondAverage_bytesOf (c : Config) {qs : List RawBytes} (h : qs.length = c.touchN + c.touchN) :
    secondAverage c.touchN (bytesOf qs) = averageOf c (qs.drop c.touchN) := by
  rw [secondAverage, samples_bytesOf, ← List.map_drop, ← List.map_take,
    List.take_of_length_le (by rw [List.length_drop]; omega), averageOf]

theorem within_eq (tol a b : Nat) : within tol a b = decide (|(a : Int) - b| ≤ tol) := by
  rw [within, Bool.eq_iff_iff]
  simp only [Bool.and_eq_true, decide_eq_true_eq, abs_le]
  omega

theorem readsAgree_bytesOf (c : Config) {qs : List RawBytes} (h : qs.length = c.touchN + c.touchN) :
    readsAgree c (bytesOf qs) =
      let p := averageOf c (qs.take c.touchN)
      let q := averageOf c (qs.drop c.touchN)
      decide (|(p.1 : Int) - q.1| ≤ c.touchTol ∧ |(p.2 : Int) - q.2| ≤ c.touchTol) := by
  rw [readsAgree, firstAverage_bytesOf, secondAverage_bytesOf c h, agree, within_eq, within_eq, Bool.decide_and]

theorem readsMean_bytesOf (c : Config) {qs : List RawBytes} (h : qs.length = c.touchN + c.touchN) :
    readsMean c (bytesOf qs) = meanOf (averageOf c (qs.take c.touchN)) (averageOf c (qs.drop c.touchN)) := by
  rw [readsMean, firstAverage_bytesOf, secondAverage_bytesOf c h]

/-! ### TOUCH_RAW, TOUCH_AVG and TOUCH_TWICE (rules R236, R239, R241) -/

/-- Settles O21: the session of one raw sample, then TOUCH_RAW's commit of it. -/
theorem touchRawCompletes : Obligations.TouchRawCompletes := by
  intro s hrest
  obtain ⟨t, qs, hexec, hbusy, hlen, htake, hsettle⟩ :=
    (takesSamples_avgActs s.cfg Nat.one_pos).exec_commits hrest (i := .touchRaw) rfl rfl
  obtain ⟨q, rfl⟩ := List.length_eq_one_iff.1 hlen
  refine ⟨t, q, hexec, hbusy, htake, ?_⟩
  obtain ⟨log, sess, pins, panel, draws, hsampled, hcompleted⟩ :=
    sampled_frame hrest.1 .touchRaw none [q] (touchSession (rawEvents s.cfg q))
  rw [hsettle, avgEvents, hsampled, hcompleted]
  rfl

theorem touchN_pos {c : Config} (h : c.wf = true) : 0 < c.touchN := by
  simp only [Config.wf, Bool.and_eq_true, decide_eq_true_eq] at h
  omega

/-- Settles O22: the session of TOUCH_N raw samples, then TOUCH_AVG's commit of their average. -/
theorem touchAvgCompletes : Obligations.TouchAvgCompletes := by
  intro s hrest hwf
  obtain ⟨t, qs, hexec, hbusy, hlen, htake, hsettle⟩ :=
    (takesSamples_avgActs s.cfg (touchN_pos hwf)).exec_commits hrest (i := .touchAvg) rfl rfl
  have havg : averageOf s.cfg qs = firstAverage s.cfg.touchN (bytesOf qs) := by
    rw [firstAverage_bytesOf, List.take_of_length_le hlen.le]
  refine ⟨t, qs, hexec, hbusy, hlen, htake, ?_⟩
  obtain ⟨log, sess, pins, panel, draws, hsampled, hcompleted⟩ :=
    sampled_frame hrest.1 .touchAvg none qs (touchSession (avgEvents s.cfg qs))
  rw [hsettle, hsampled, hcompleted, havg, hlen]
  rfl

theorem four_mul_twice (n : Nat) : 4 * (n + n) = 8 * n := by omega

/-- The samples of two averages, each half by itself and their bytes together. -/
theorem twice_halves {n : Nat} {qs : List RawBytes} {touch : List Byte} (hlen : qs.length = n + n)
    (htake : (bytesOf qs).take touch.length = touch.take (4 * (n + n))) :
    (qs.take n).length = n ∧ (qs.drop n).length = n ∧
      (bytesOf (qs.take n ++ qs.drop n)).take touch.length = touch.take (8 * n) := by
  rw [four_mul_twice] at htake
  rw [List.length_take, List.length_drop, List.take_append_drop]
  exact ⟨by omega, by omega, htake⟩

/-- Settles O23: the session of both averages, then TOUCH_TWICE's commit of their agreement and their mean. -/
theorem touchTwiceCompletes : Obligations.TouchTwiceCompletes := by
  intro s hrest hwf
  obtain ⟨t, qs, hexec, hbusy, hlen, htake, hsettle⟩ :=
    (takesSamples_twiceActs s.cfg (touchN_pos hwf)).exec_commits hrest (i := .touchTwice) rfl rfl
  obtain ⟨hps, hqs, hbytes⟩ := twice_halves hlen htake
  refine ⟨t, qs.take s.cfg.touchN, qs.drop s.cfg.touchN, hexec, hbusy, hps, hqs, hbytes, ?_⟩
  intro p q ok
  have hok : ok = readsAgree s.cfg (bytesOf qs) := (readsAgree_bytesOf s.cfg hlen).symm
  have hmean : ((p.1 + q.1) / 2, (p.2 + q.2) / 2) = readsMean s.cfg (bytesOf qs) :=
    (readsMean_bytesOf s.cfg hlen).symm
  obtain ⟨log, sess, pins, panel, draws, hsampled, hcompleted⟩ := sampled_frame hrest.1 .touchTwice none qs
    (touchSession (avgEvents s.cfg (qs.take s.cfg.touchN) ++ avgEvents s.cfg (qs.drop s.cfg.touchN)))
  rw [hsettle, twiceEvents, hsampled, hcompleted, hok, hmean, hlen, four_mul_twice]
  rfl

/-! ### TOUCH_SCAN (rules R243, R244, R245) -/

theorem commitTouchScan_pressed {r : Running} {s : State} (h : scanPressed s.cfg r = true) {m : Nat × Nat}
    (hm : readsMean s.cfg r.rx = m) : commitTouchScan r s =
      (State.commitPressed true ({ s with traw := packRaw m }.commitXform (s.xform m.1 m.2))).commitTouch true := by
  rw [commitTouchScan, h, if_pos rfl, hm, State.commitPress]

theorem commitTouchScan_notPressed {r : Running} {s : State} (h : scanPressed s.cfg r = false) :
    commitTouchScan r s =
      { s with status := { s.status with tvalid := false, pressed := false, winopen := false } } := by
  rw [commitTouchScan, h, if_neg Bool.false_ne_true]
  simp [State.commitPressed, State.commitTouch]

theorem sampled_cfg (s : State) (i : Instr) (pen : Option Pen) (qs : List RawBytes) (es : List Event) :
    (s.sampled i pen qs es).cfg = s.cfg := by
  obtain ⟨log, sess, pins, panel, draws, hframe⟩ := afterEvents_frame es (s.latch i)
  rw [State.sampled, hframe, State.drawing, State.latch_cfg]

theorem sampled_xform (s : State) (i : Instr) (pen : Option Pen) (qs : List RawBytes) (es : List Event) (rx ry : Nat) :
    (s.sampled i pen qs es).xform rx ry = s.xform rx ry := by
  obtain ⟨log, sess, pins, panel, draws, hframe⟩ := afterEvents_frame es (s.latch i)
  rw [State.sampled, hframe]
  rfl

/-- Without a press TOUCH_SCAN commits STATUS alone. -/
theorem commit_touchScan_notPressed {s : State} (hidle : s.engine = .idle) {pen : Option Pen} {qs : List RawBytes}
    {es : List Event} (h : scanPressed s.cfg (Running.sampled s.cfg .touchScan pen qs es) = false) :
    commit (Running.sampled s.cfg .touchScan pen qs es) (s.sampled .touchScan pen qs es) =
      { s.completed .touchScan es with
        status := { s.status with tvalid := false, pressed := false, winopen := false, done := true }
        touchIn := s.touchIn.drop (4 * qs.length)
        penIn := pensLeft pen s.penIn } := by
  obtain ⟨log, sess, pins, panel, draws, hsampled, hcompleted⟩ := sampled_frame hidle .touchScan pen qs es
  rw [← sampled_cfg s .touchScan pen qs es] at h
  have hcommit := congrArg State.complete (commitTouchScan_notPressed h)
  rw [sampled_cfg] at hcommit
  refine hcommit.trans ?_
  rw [hsampled, hcompleted]
  rfl

/-- With a press TOUCH_SCAN commits the mean, its transform and STATUS. -/
theorem commit_touchScan_pressed {s : State} {pen : Option Pen} {qs : List RawBytes} {es : List Event}
    (h : scanPressed s.cfg (Running.sampled s.cfg .touchScan pen qs es) = true) {m : Nat × Nat}
    (hm : readsMean s.cfg (bytesOf qs) = m) :
    commit (Running.sampled s.cfg .touchScan pen qs es) (s.sampled .touchScan pen qs es) =
      ((State.commitPressed true ({ s.sampled .touchScan pen qs es with traw := packRaw m }.commitXform
        (s.xform m.1 m.2))).commitTouch true).complete := by
  rw [← sampled_xform s .touchScan pen qs es]
  rw [← sampled_cfg s .touchScan pen qs es] at hm
  refine congrArg State.complete (commitTouchScan_pressed ?_ hm)
  rwa [sampled_cfg]

/-- Where the pen was not up, TOUCH_SCAN commits what rule R244 says of its two averages. -/
theorem commit_touchScan {s : State} (hidle : s.engine = .idle) {pen : Option Pen} (hpen : pen ≠ some .up)
    {qs : List RawBytes} (hlen : qs.length = s.cfg.touchN + s.cfg.touchN) (es : List Event) :
    commit (Running.sampled s.cfg .touchScan pen qs es) (s.sampled .touchScan pen qs es) =
      scanOutcome s
        { s.completed .touchScan es with
          touchIn := s.touchIn.drop (4 * qs.length)
          penIn := pensLeft pen s.penIn }
        (qs.take s.cfg.touchN) (qs.drop s.cfg.touchN) := by
  have hpressed : scanPressed s.cfg (Running.sampled s.cfg .touchScan pen qs es) = readsAgree s.cfg (bytesOf qs) := by
    simp [scanPressed, Running.sampled, hpen]
  have hagree := hpressed.trans (readsAgree_bytesOf s.cfg hlen)
  simp only [scanOutcome]
  split
  · next hyes =>
    rw [commit_touchScan_pressed (hagree.trans (decide_eq_true hyes)) (readsMean_bytesOf s.cfg hlen)]
    obtain ⟨log, sess, pins, panel, draws, hsampled, hcompleted⟩ := sampled_frame hidle .touchScan pen qs es
    rw [hsampled, hcompleted, meanOf]
    split
    all_goals next hx =>
      rw [hx]
      rfl
  · next hno => exact commit_touchScan_notPressed hidle (hagree.trans (decide_eq_false hno))

/-- Events draw nothing of their own from the given bytes and levels. -/
theorem completed_touchIn (s : State) (i : Instr) (es : List Event) : (s.completed i es).touchIn = s.touchIn := by
  obtain ⟨log, sess, pins, panel, draws, hframe⟩ := afterEvents_frame es (s.latch i)
  rw [State.completed, hframe, State.latch_touchIn]

theorem completed_penIn (s : State) (i : Instr) (es : List Event) : (s.completed i es).penIn = s.penIn := by
  obtain ⟨log, sess, pins, panel, draws, hframe⟩ := afterEvents_frame es (s.latch i)
  rw [State.completed, hframe, State.latch_penIn]

/-- Settles O24: the session of both averages, then TOUCH_SCAN's commit of them. -/
theorem touchScanCompletes : Obligations.TouchScanCompletes := by
  intro s hrest hwf hpen
  have hacts : procedureOf .touchScan (s.latch .touchScan) = twiceActs s.cfg ++ [.finish] := by
    simp [procedureOf, touchScanActs, hpen]
  have hsamples := takesSamples_twiceActs s.cfg (touchN_pos hwf)
  rw [← hacts] at hsamples
  obtain ⟨t, qs, hexec, hbusy, hlen, htake, hsettle⟩ := hsamples.exec_commits hrest rfl rfl
  obtain ⟨hps, hqs, hbytes⟩ := twice_halves hlen htake
  rw [commit_touchScan hrest.1 (by simp) hlen, hlen, four_mul_twice, pensLeft,
    ← completed_penIn s .touchScan (touchSession (twiceEvents s.cfg qs))] at hsettle
  exact ⟨t, qs.take s.cfg.touchN, qs.drop s.cfg.touchN, hexec, hbusy, hps, hqs, hbytes, hsettle⟩

theorem beginsWrite_pen (c : Config) (level : Pen) (es : List Event) :
    beginsWrite c (.pen level :: es) = beginsWrite c es := by
  simp [beginsWrite]

/-- The slots a pen level leaves of those after it: only `finish()` after UP (rule R244). -/
def slotsAfterPen (σ : Sessions) (slots : List Slot) : Pen → List Slot
  | .down => slots
  | .up => closeSlots σ

/-- The engine samples the pen: the level is the one given, if any is (rule R243). -/
theorem engineStep_samplePen (s : State) {r : Running} {slots : List Slot} (htodo : r.todo = .samplePen :: slots)
    (touch : List Byte) (pens : List Pen) : ∃ level, (∀ l ∈ pens.head?, level = l) ∧
      engineStep (s.drawing r touch pens) =
        (s.performEvent (.pen level)).drawing
          { r with todo := slotsAfterPen s.sess slots level, pen := some level } touch pens.tail := by
  refine ⟨(s.drawing r touch pens).nextPen, fun l hl => ?_, engineStep_slot _ r _ _ rfl htodo⟩
  obtain ⟨ps, rfl⟩ := List.head?_eq_some_iff.1 hl
  rfl

/-- With pen detection TOUCH_SCAN makes one PEN event, takes the samples of the slots that leaves, and commits. -/
theorem exec_touchScan_samplesPen {s : State} (hrest : s.atRest) (hpen : s.cfg.penDetect = true) :
    ∃ (t : State) (level : Pen), exec .touchScan s = .next t ∧ t.busy = true ∧ (∀ l ∈ s.penIn.head?, level = l) ∧
      ∀ {n events}, TakesSamples
        (slotsAfterPen Sessions.closed (plan Sessions.closed (twiceActs s.cfg ++ [.finish])) level) n events →
        ∃ qs : List RawBytes, qs.length = n ∧
          (bytesOf qs).take s.touchIn.length = s.touchIn.take (4 * n) ∧
          t.settle = commit (Running.sampled s.cfg .touchScan (some level) qs (.pen level :: events qs))
            (s.sampled .touchScan (some level) qs (.pen level :: events qs)) := by
  obtain ⟨hidle, hsess⟩ := hrest
  generalize hslots : plan Sessions.closed (twiceActs s.cfg ++ [.finish]) = slots
  have hplan : plan s.sess (procedureOf .touchScan (s.latch .touchScan)) = .samplePen :: slots := by
    simp [procedureOf, touchScanActs, hpen, hsess, plan, hslots]
  have hexec := exec_starts (i := .touchScan) ((State.not_busy_iff s).2 hidle) rfl (by simp [needsReady])
  rw [State.start, State.latch_sess, hplan] at hexec
  obtain ⟨level, hlevel, hstep⟩ := engineStep_samplePen (s.latch .touchScan)
    (r := ⟨.touchScan, .samplePen :: slots, [], none, false⟩) rfl s.touchIn s.penIn
  rw [State.latch_sess, hsess] at hstep
  refine ⟨_, level, hexec, rfl, hlevel, fun hsamples => ?_⟩
  obtain ⟨qs, rfl, htake, hrun⟩ := hsamples.commits ((s.latch .touchScan).performEvent (.pen level)) .touchScan
    (some level) s.touchIn s.penIn.tail
  have hfew : (slotsAfterPen Sessions.closed slots level).length < slots.length + 3 := by
    cases level <;> simp [slotsAfterPen]
  refine ⟨qs, rfl, htake, ?_⟩
  rw [Running.sampled, State.sampled, Running.sampled, beginsWrite_pen]
  exact (congrArg (engineSteps (slots.length + 3)) hstep).trans (hrun _ hfew)

/-- Settles O25: UP leaves nothing to sample and no press; DOWN leaves the session of both averages. -/
theorem touchScanWithPenCompletes : Obligations.TouchScanWithPenCompletes := by
  intro s hrest hwf hpen
  obtain ⟨t, level, hexec, hbusy, hlevel, hsettle⟩ := exec_touchScan_samplesPen hrest hpen
  refine ⟨t, level, hexec, hbusy, hlevel, ?_⟩
  cases level with
  | up =>
    obtain ⟨qs, hlen, _, hsettle⟩ := hsettle (takesSamples_emits [])
    obtain rfl := List.length_eq_zero_iff.1 hlen
    refine hsettle.trans ((commit_touchScan_notPressed hrest.1 rfl).trans ?_)
    rw [← completed_touchIn s .touchScan [.pen .up]]
    rfl
  | down =>
    obtain ⟨qs, hlen, htake, hsettle⟩ := hsettle (takesSamples_twiceActs s.cfg (touchN_pos hwf))
    obtain ⟨hps, hqs, hbytes⟩ := twice_halves hlen htake
    rw [commit_touchScan hrest.1 (by simp) hlen, hlen, four_mul_twice] at hsettle
    exact ⟨qs.take s.cfg.touchN, qs.drop s.cfg.touchN, hps, hqs, hbytes, hsettle⟩

end Sys2Proof.Machine

/-! The binary32 values of the transformer as rational numbers: rounding to nearest with ties to even, the operations as
one rounding of their exact result, and truncation to s32. -/

namespace Sys2Proof.Machine

/-! ### Magnitudes as rational numbers -/

theorem realValue_false (m : Nat) (e : Int) : realValue false m e = m * (2 : ℚ) ^ e := by simp [realValue]

theorem realValue_not (neg : Bool) (m : Nat) (e : Int) : realValue (!neg) m e = -realValue neg m e := by
  cases neg <;> simp [realValue]

@[simp] theorem realValue_zero (neg : Bool) (e : Int) : realValue neg 0 e = 0 := by simp [realValue]

theorem realValue_nonneg (m : Nat) (e : Int) : 0 ≤ realValue false m e := by
  rw [realValue_false]
  positivity

/-- A value and its magnitude carry the same sign. -/
theorem realValue_eq_sign_mul (neg : Bool) (m : Nat) (e : Int) :
    realValue neg m e = (if neg then -1 else 1) * realValue false m e := by
  cases neg <;> simp [realValue]

theorem abs_realValue (neg : Bool) (m : Nat) (e : Int) : |realValue neg m e| = realValue false m e := by
  rw [realValue, realValue_false, abs_mul, abs_mul, abs_of_pos (a := (2 : ℚ) ^ e) (by positivity), Nat.abs_cast]
  cases neg <;> simp

theorem realValue_mul (a b : Bool) (m n : Nat) (e f : Int) :
    realValue (Bool.xor a b) (m * n) (e + f) = realValue a m e * realValue b n f := by
  have hsign : (if Bool.xor a b then -1 else 1 : ℚ) = (if a then -1 else 1) * (if b then -1 else 1) := by
    cases a <;> cases b <;> simp
  rw [realValue, realValue, realValue, zpow_add₀ two_ne_zero, hsign, Nat.cast_mul]
  ring

theorem realValue_natCast (n : Nat) : realValue false n 0 = (n : Int) := by simp [realValue_false]

/-- An integer in units of `2^g`, as a sign and a magnitude. -/
theorem realValue_natAbs (z g : Int) : realValue (decide (z < 0)) z.natAbs g = z * (2 : ℚ) ^ g := by
  rcases lt_or_ge z 0 with hneg | hpos
  · simp [realValue, hneg, abs_of_neg]
  · simp [realValue, hpos.not_gt, abs_of_nonneg hpos]

/-- Counting in smaller units leaves the value. -/
theorem natCast_shift (m : Nat) {e g : Int} (h : g ≤ e) :
    ((m * 2 ^ (e - g).toNat : Nat) : ℚ) = m * (2 : ℚ) ^ (e - g) := by
  obtain ⟨k, hk⟩ := Int.eq_ofNat_of_zero_le (sub_nonneg.2 h)
  simp [hk]

/-- Counting in larger units divides. -/
theorem div_shift (m : Nat) {e g : Int} (h : ¬g ≤ e) : (m : ℚ) / 2 ^ (g - e).toNat = m * (2 : ℚ) ^ (e - g) := by
  obtain ⟨k, hk⟩ := Int.eq_ofNat_of_zero_le (sub_nonneg.2 (not_le.1 h).le)
  rw [← neg_sub g e, hk, zpow_neg, div_eq_mul_inv]
  rfl

/-- The magnitude as a whole number, or as a fraction of whole numbers. -/
theorem realValue_of_nonneg (m : Nat) {e : Int} (h : 0 ≤ e) : realValue false m e = (m * 2 ^ e.toNat : Nat) := by
  rw [realValue_false, ← sub_zero e, natCast_shift m h]

theorem realValue_of_neg (m : Nat) {e : Int} (h : ¬0 ≤ e) : realValue false m e = m / (2 ^ (-e).toNat : Nat) := by
  have hunits := div_shift m h
  rw [sub_zero, zero_sub] at hunits
  rw [realValue_false, ← hunits, Nat.cast_pow, Nat.cast_ofNat]

theorem scaled_mul_zpow (neg : Bool) (m : Nat) {e g : Int} (h : g ≤ e) :
    (scaled neg m e g : ℚ) * 2 ^ g = realValue neg m e := by
  have hunits : (2 : ℚ) ^ (e - g) * 2 ^ g = 2 ^ e := by rw [← zpow_add₀ two_ne_zero, sub_add_cancel]
  rw [scaled, Int.cast_mul, Int.cast_natCast, natCast_shift m h, realValue, mul_assoc, mul_assoc, hunits, mul_assoc]
  cases neg <;> simp

/-! ### The operations round their exact results (rules R266, R267) -/

/-- `x` is a rounding of the exact value `v`. -/
def F32.Rounds (x : F32) (v : ℚ) : Prop := ∃ neg k g, x = roundF32 neg k g ∧ realValue neg k g = v

theorem f32mul_rounds (a b : Bool) (m n : Nat) (e f : Int) :
    (f32mul (.fin a m e) (.fin b n f)).Rounds (realValue a m e * realValue b n f) :=
  ⟨_, _, _, rfl, realValue_mul a b m n e f⟩

theorem f32add_rounds (a b : Bool) (m n : Nat) (e f : Int) :
    (f32add (.fin a m e) (.fin b n f)).Rounds (realValue a m e + realValue b n f) := by
  have hsum := (add_mul (scaled a m e (min e f) : ℚ) (scaled b n f (min e f)) (2 ^ min e f)).trans
    (congrArg₂ (· + ·) (scaled_mul_zpow a m (min_le_left e f)) (scaled_mul_zpow b n (min_le_right e f)))
  rw [← Int.cast_add] at hsum
  rw [← hsum]
  simp only [f32add]
  split
  · next hzero => exact ⟨a && b, 0, 0, rfl, by simp [hzero]⟩
  · exact ⟨_, _, _, rfl, realValue_natAbs _ _⟩

theorem f32sub_rounds (a b : Bool) (m n : Nat) (e f : Int) :
    (f32sub (.fin a m e) (.fin b n f)).Rounds (realValue a m e - realValue b n f) := by
  rw [sub_eq_add_neg, ← realValue_not]
  exact f32add_rounds a (!b) m n e f

/-! ### To nearest, ties to even, in units of the last place (rule R267) -/

/-- `r` is a natural number nearest to `x`, and the even one of two. -/
def RoundsEven (r : Nat) (x : ℚ) : Prop := |r - x| ≤ 1 / 2 ∧ (|r - x| = 1 / 2 → r % 2 = 0)

/-- The fraction that `roundShift` drops is below, at or above one half as the remainder is. -/
theorem div_pow_eq_add_fraction (m k : Nat) :
    ∃ t : ℚ, (m : ℚ) / 2 ^ (k + 1) = (m / 2 ^ (k + 1) : Nat) + t ∧ 0 ≤ t ∧ t < 1 ∧
      (m % 2 ^ (k + 1) < 2 ^ k ↔ t < 1 / 2) ∧ (2 ^ k < m % 2 ^ (k + 1) ↔ 1 / 2 < t) := by
  have hrest : m % 2 ^ (k + 1) < 2 ^ k * 2 := Nat.mod_lt m (by positivity)
  have hdiv := Nat.div_add_mod m (2 ^ (k + 1))
  generalize m / 2 ^ (k + 1) = q, m % 2 ^ (k + 1) = rest at *
  have hpos : (0 : ℚ) < 2 ^ (k + 1) := by positivity
  have hhalf : (2 : ℚ) ^ k = 1 / 2 * 2 ^ (k + 1) := by ring
  refine ⟨rest / 2 ^ (k + 1), ?_, by positivity, ?_, ?_, ?_⟩
  · rw [← hdiv]
    push_cast
    field_simp
  · rw [div_lt_one hpos]
    exact_mod_cast hrest
  · rw [div_lt_iff₀ hpos, ← hhalf]
    norm_cast
  · rw [lt_div_iff₀ hpos, ← hhalf]
    norm_cast

theorem roundShift_roundsEven (m : Nat) {k : Nat} (hk : 1 ≤ k) : RoundsEven (roundShift m k) (m / 2 ^ k) := by
  obtain ⟨k, rfl⟩ := Nat.exists_eq_add_of_le' hk
  obtain ⟨t, hx, hpos, hone, hbelow, habove⟩ := div_pow_eq_add_fraction m k
  rw [hx, roundShift, Nat.add_sub_cancel, RoundsEven]
  generalize m / 2 ^ (k + 1) = q, m % 2 ^ (k + 1) = rest at *
  rcases lt_trichotomy rest (2 ^ k) with hlt | rfl | hgt
  · have hdown : |(q : ℚ) - (q + t)| = t := by simp [abs_of_nonneg hpos]
    have ht := hbelow.1 hlt
    rw [if_neg (by omega), hdown]
    exact ⟨ht.le, fun htie => absurd htie ht.ne⟩
  · obtain rfl : t = 1 / 2 := le_antisymm (by simpa using habove) (by simpa using hbelow)
    have habs : |(q : ℚ) - (q + 1 / 2)| = 1 / 2 ∧ |((q + 1 : Nat) : ℚ) - (q + 1 / 2)| = 1 / 2 := by
      constructor
      · simp
      · push_cast
        norm_num
    split
    · exact ⟨habs.2.le, fun _ => by omega⟩
    · exact ⟨habs.1.le, fun _ => by omega⟩
  · have ht := habove.1 hgt
    have hup : |((q + 1 : Nat) : ℚ) - (q + t)| = 1 - t := by
      push_cast
      rw [add_sub_add_left_eq_sub, abs_of_pos (by linarith)]
    rw [if_pos (.inl hgt), hup]
    exact ⟨by linarith, fun htie => absurd htie (by linarith)⟩

theorem roundTo_roundsEven (q : Int) (m : Nat) (e : Int) : RoundsEven (roundTo q m e) (m * 2 ^ (e - q)) := by
  rw [roundTo]
  split
  · next h => simp [RoundsEven, ← natCast_shift m h]
  · next h =>
    rw [← div_shift m h]
    exact roundShift_roundsEven m (by omega)

/-- Every other integer is at least as far away, and further but for a tie. -/
theorem RoundsEven.nearest_nat {r : Nat} {x : ℚ} (h : RoundsEven r x) (k : Nat) :
    |r - x| ≤ |k - x| ∧ (|r - x| = |k - x| → (r : ℚ) = k ∨ r % 2 = 0) := by
  obtain ⟨hnear, htie⟩ := h
  by_cases hk : r = k
  · subst hk
    exact ⟨le_rfl, fun _ => .inl rfl⟩
  · have hone : (1 : ℚ) ≤ |(r : ℚ) - k| := by
      exact_mod_cast Int.one_le_abs (sub_ne_zero.2 (Nat.cast_injective (R := Int) |>.ne hk))
    have htri := abs_sub_le (r : ℚ) x k
    rw [abs_sub_comm x] at htri
    exact ⟨by linarith, fun heq => .inr (htie (by linarith))⟩

/-- Rounding keeps natural bounds. -/
theorem RoundsEven.le_of_le {r k : Nat} {x : ℚ} (h : RoundsEven r x) (hx : x ≤ k) : r ≤ k := by
  have hlt : (r : ℚ) < (k + 1 : Nat) := by
    push_cast
    linarith [(abs_le.1 h.1).2]
  exact Nat.lt_succ_iff.1 (Nat.cast_lt.1 hlt)

theorem RoundsEven.ge_of_ge {r k : Nat} {x : ℚ} (h : RoundsEven r x) (hx : k ≤ x) : k ≤ r := by
  have hlt : (k : ℚ) < (r + 1 : Nat) := by
    push_cast
    linarith [(abs_le.1 h.1).1]
  exact Nat.lt_succ_iff.1 (Nat.cast_lt.1 hlt)

/-- A value below a natural number that `x` is not below is further from `x` than the rounding. -/
theorem RoundsEven.nearer_of_lt {r : Nat} {x y : ℚ} (h : RoundsEven r x) {k : Nat} (hy : y < k) (hx : k ≤ x) :
    |r - x| < |y - x| := by
  have hle := (h.nearest_nat k).1
  rw [abs_sub_comm (k : ℚ), abs_of_nonneg (sub_nonneg.2 hx)] at hle
  rw [abs_sub_comm y x, abs_of_pos (a := x - y) (by linarith)]
  linarith

/-! ### The last place of a result (rule R267) -/

theorem neg_149_le_lastPlace (m : Nat) (e : Int) : -149 ≤ lastPlace m e := le_max_right _ _

/-- In units of its last place a value has at most 24 bits. -/
theorem lt_of_lastPlace (m : Nat) (e : Int) : (m : ℚ) * 2 ^ (e - lastPlace m e) < 2 ^ 24 := by
  have hplace : e + (Nat.log2 m : Int) + 1 - 24 ≤ lastPlace m e := le_max_left _ _
  calc (m : ℚ) * 2 ^ (e - lastPlace m e)
      < 2 ^ (Nat.log2 m + 1) * 2 ^ (e - lastPlace m e) := by
        gcongr
        exact_mod_cast Nat.lt_log2_self
    _ = 2 ^ ((Nat.log2 m : Int) + 1 + (e - lastPlace m e)) := by rw [zpow_add₀ two_ne_zero]; rfl
    _ ≤ 2 ^ (24 : Int) := zpow_le_zpow_right₀ one_le_two (by omega)

/-- It has exactly 24 bits, unless the last place is the subnormals'. -/
theorem le_of_lastPlace {m : Nat} (hm : m ≠ 0) (e : Int) (hplace : lastPlace m e ≠ -149) :
    2 ^ 23 ≤ (m : ℚ) * 2 ^ (e - lastPlace m e) := by
  have hplace : lastPlace m e = e + (Nat.log2 m : Int) + 1 - 24 := by grind [lastPlace]
  calc (2 : ℚ) ^ 23 = 2 ^ ((Nat.log2 m : Int) + (e - lastPlace m e)) := by
        rw [hplace, show (Nat.log2 m : Int) + (e - (e + (Nat.log2 m : Int) + 1 - 24)) = 23 by ring]
        rfl
    _ = 2 ^ Nat.log2 m * 2 ^ (e - lastPlace m e) := by rw [zpow_add₀ two_ne_zero]; rfl
    _ ≤ m * 2 ^ (e - lastPlace m e) := by
        gcongr
        exact_mod_cast Nat.log2_self_le hm

theorem packed_carry (neg : Bool) (q : Int) :
    packed neg (2 ^ 24) q = if 104 < q + 1 then .inf neg else .fin neg (2 ^ 23) (q + 1) := rfl

theorem packed_of_ne (neg : Bool) {r : Nat} (hr : r ≠ 2 ^ 24) (q : Int) :
    packed neg r q = if 104 < q then .inf neg else .fin neg r q := by
  rw [packed, if_neg hr, if_neg hr]

/-- What `packed` makes of at most `2^24` units of `2^q`: an infinity past the largest finite value, else the same
value with at most 24 bits. -/
theorem packed_cases (neg : Bool) {r : Nat} {q : Int} (hr : r ≤ 2 ^ 24) (hq : -149 ≤ q)
    (hbits : q ≠ -149 → 2 ^ 23 ≤ r) :
    (packed neg r q = .inf neg ∧ (104 < q ∨ q = 104 ∧ r = 2 ^ 24)) ∨
    ∃ n p, packed neg r q = .fin neg n p ∧ realValue false n p = r * 2 ^ q ∧ n < 2 ^ 24 ∧ -149 ≤ p ∧ p ≤ 104 ∧
      (2 ^ 23 ≤ n ∨ p = -149) ∧ (r % 2 = 0 → n % 2 = 0) ∧ (q < 104 ∨ q = 104 ∧ r < 2 ^ 24) := by
  by_cases hcarry : r = 2 ^ 24
  · rw [hcarry, packed_carry]
    split
    · exact .inl ⟨rfl, by omega⟩
    · refine .inr ⟨2 ^ 23, q + 1, rfl, ?_, by norm_num, by omega, by omega, .inl le_rfl, fun _ => rfl, by omega⟩
      rw [realValue_false, zpow_add₀ two_ne_zero]
      push_cast
      ring
  · rw [packed_of_ne neg hcarry]
    split
    · next hover => exact .inl ⟨rfl, .inl hover⟩
    · exact .inr ⟨r, q, rfl, realValue_false r q, by omega, hq, by omega, by omega, id, by omega⟩

/-! ### Rounding to nearest (rule R267) -/

/-- The values of at most 24 bits, in units of `2^q`: whole, or below those of 24 bits. -/
theorem units_of_lt {n : Nat} (hn : n < 2 ^ 24) (p q : Int) :
    (∃ k : Nat, (n : ℚ) * 2 ^ (p - q) = k) ∨ (p < q ∧ (n : ℚ) * 2 ^ (p - q) < (2 ^ 23 : Nat)) := by
  rcases le_or_gt q p with hle | hlt
  · exact .inl ⟨_, (natCast_shift n hle).symm⟩
  · refine .inr ⟨hlt, ?_⟩
    calc (n : ℚ) * 2 ^ (p - q) < 2 ^ 24 * 2 ^ (p - q) := by
          gcongr
          exact_mod_cast hn
      _ ≤ 2 ^ 24 * 2 ^ (-1 : Int) := by
          gcongr
          · exact one_le_two
          · omega
      _ = (2 ^ 23 : Nat) := by norm_num

section Nearest

variable {r : Nat} {q : Int} {x : ℚ}

/-- No value of at most 24 bits is nearer to `x · 2^q` than its rounding `r · 2^q`. -/
theorem RoundsEven.nearest (h : RoundsEven r x) (hbits : q ≠ -149 → 2 ^ 23 ≤ x) {n : Nat} (hn : n < 2 ^ 24) {p : Int}
    (hp : -149 ≤ p) :
    |r * (2 : ℚ) ^ q - x * 2 ^ q| ≤ |realValue false n p - x * 2 ^ q| ∧
    (|r * (2 : ℚ) ^ q - x * 2 ^ q| = |realValue false n p - x * 2 ^ q| →
      r * (2 : ℚ) ^ q = realValue false n p ∨ r % 2 = 0) := by
  have hpos : (0 : ℚ) < 2 ^ q := by positivity
  have hunits : realValue false n p = n * 2 ^ (p - q) * 2 ^ q := by
    rw [realValue_false, mul_assoc, ← zpow_add₀ two_ne_zero, sub_add_cancel]
  rw [hunits, ← sub_mul, ← sub_mul, abs_mul, abs_mul, abs_of_pos hpos, mul_le_mul_iff_left₀ hpos,
    mul_left_inj' hpos.ne', mul_left_inj' hpos.ne']
  rcases units_of_lt hn p q with ⟨k, hk⟩ | ⟨hlt, hbelow⟩
  · rw [hk]
    exact h.nearest_nat k
  · have hnearer := h.nearer_of_lt hbelow (by exact_mod_cast hbits (by omega))
    exact ⟨hnearer.le, fun htie => absurd htie hnearer.ne⟩

/-- What overflows is at least half a unit past the largest finite value. -/
theorem RoundsEven.le_of_overflow (h : RoundsEven r x) (hbits : q ≠ -149 → 2 ^ 23 ≤ x)
    (hover : 104 < q ∨ q = 104 ∧ r = 2 ^ 24) : realValue false (2 ^ 25 - 1) 103 ≤ x * 2 ^ q := by
  rw [realValue_false]
  rcases hover with hq | ⟨rfl, rfl⟩
  · have hpow : (2 : ℚ) ^ (105 : Int) ≤ 2 ^ q := zpow_le_zpow_right₀ one_le_two hq
    calc ((2 ^ 25 - 1 : Nat) : ℚ) * 2 ^ (103 : Int) ≤ 2 ^ 23 * 2 ^ (105 : Int) := by norm_num
      _ ≤ x * 2 ^ q := mul_le_mul (hbits (by omega)) hpow (by positivity) (le_trans (by positivity) (hbits (by omega)))
  · have hnear := (abs_le.1 h.1).2
    norm_num at hnear ⊢
    linarith

/-- What does not overflow is below that: the value half a unit past the largest finite one is a tie, and rounds up. -/
theorem RoundsEven.lt_of_fits (h : RoundsEven r x) (hlt : x < 2 ^ 24) (hfits : q < 104 ∨ q = 104 ∧ r < 2 ^ 24) :
    x * 2 ^ q < realValue false (2 ^ 25 - 1) 103 := by
  rw [realValue_false]
  rcases hfits with hq | ⟨rfl, hr⟩
  · have hpow : (2 : ℚ) ^ q ≤ 2 ^ (103 : Int) := zpow_le_zpow_right₀ one_le_two (by omega)
    calc x * 2 ^ q < 2 ^ 24 * 2 ^ q := by gcongr
      _ ≤ 2 ^ 24 * 2 ^ (103 : Int) := by gcongr
      _ ≤ ((2 ^ 25 - 1 : Nat) : ℚ) * 2 ^ (103 : Int) := by norm_num
  · have hle : (r : ℚ) ≤ 2 ^ 24 - 1 := by
      have hle := Nat.cast_le (α := ℚ).2 (Nat.le_sub_one_of_lt hr)
      norm_num at hle ⊢
      exact hle
    have hx : x < 2 ^ 24 - 1 / 2 := by
      refine lt_of_le_of_ne (by linarith [(abs_le.1 h.1).1]) fun htie => ?_
      have hr' : (r : ℚ) = (2 ^ 24 - 1 : Nat) := by
        push_cast
        linarith [(abs_le.1 h.1).1]
      obtain rfl : r = 2 ^ 24 - 1 := Nat.cast_injective hr'
      exact absurd (h.2 (by rw [htie]; norm_num)) (by decide)
    norm_num at hx ⊢
    linarith

end Nearest

/-- The rounding of `m · 2^e` packs the nearest natural number of units of the last place. -/
theorem roundF32_packs (neg : Bool) {m : Nat} (hm : m ≠ 0) (e : Int) :
    ∃ (r : Nat) (q : Int) (x : ℚ), roundF32 neg m e = packed neg r q ∧ realValue false m e = x * 2 ^ q ∧
      RoundsEven r x ∧ x < 2 ^ 24 ∧ -149 ≤ q ∧ (q ≠ -149 → 2 ^ 23 ≤ x) := by
  refine ⟨_, lastPlace m e, m * 2 ^ (e - lastPlace m e), if_neg hm, ?_, roundTo_roundsEven _ m e, lt_of_lastPlace m e,
    neg_149_le_lastPlace m e, le_of_lastPlace hm e⟩
  rw [realValue_false, mul_assoc, ← zpow_add₀ two_ne_zero, sub_add_cancel]

/-- Settles O57: in units of the last place the result is the nearest integer, and a value of a smaller unit is below
every result of 24 bits. -/
theorem roundingIsToNearestEven : Obligations.RoundingIsToNearestEven := by
  intro neg m e hm v
  obtain ⟨r, q, x, hround, hv, hnear, hlt, hq, hge⟩ := roundF32_packs neg hm e
  have hr : r ≤ 2 ^ 24 := hnear.le_of_le (by exact_mod_cast hlt.le)
  have hr' : q ≠ -149 → 2 ^ 23 ≤ r := fun hplace => hnear.ge_of_ge (by exact_mod_cast hge hplace)
  rw [hround, show v = x * 2 ^ q from hv]
  rcases packed_cases neg hr hq hr' with ⟨hinf, hover⟩ | ⟨n, p, hfin, hval, hn, hp, hp', hbits, heven, hfits⟩
  · rw [hinf]
    exact ⟨rfl, hnear.le_of_overflow hge hover⟩
  · rw [hfin]
    refine ⟨rfl, hnear.lt_of_fits hlt hfits, hn, hp, hp', hbits, fun n' q' hn' hq' _ => ?_⟩
    obtain ⟨hle, htie⟩ := hnear.nearest hge hn' hq'
    rw [hval]
    exact ⟨hle, fun heq => (htie heq).imp_right heven⟩

/-! ### Exact results (rules R266, R267) -/

/-- An integer of at most 24 bits is its own rounding. -/
theorem roundF32_exact {neg : Bool} {m : Nat} {e z : Int} (h : realValue neg m e = z) (hz : z.natAbs < 2 ^ 24) :
    ∃ k q, roundF32 neg m e = .fin neg k q ∧ realValue neg k q = z := by
  by_cases hm : m = 0
  · subst hm
    exact ⟨0, -149, rfl, by simpa using h⟩
  · have hround := roundingIsToNearestEven neg m e hm
    have hmagnitude : realValue false m e = z.natAbs := by rw [← abs_realValue neg, h, Nat.cast_natAbs, Int.cast_abs]
    have hcandidate : realValue false z.natAbs 0 = realValue false m e := by simp [realValue_false, ← hmagnitude]
    simp only at hround
    split at hround
    · exact hround.elim
    · have hbig : ((2 ^ 24 : Nat) : ℚ) ≤ z.natAbs := le_trans (by norm_num [realValue]) (hround.2.trans_eq hmagnitude)
      exact absurd (Nat.cast_le.1 hbig) hz.not_ge
    · next s k q hfin =>
      obtain ⟨rfl, _, _, _, _, _, hnearest⟩ := hround
      have hdist := (hnearest z.natAbs 0 hz (by norm_num) (by norm_num)).1
      rw [hcandidate, sub_self, abs_zero, abs_nonpos_iff, sub_eq_zero] at hdist
      exact ⟨k, q, hfin, by rw [realValue_eq_sign_mul, hdist, ← realValue_eq_sign_mul, h]⟩

/-- Settles O56: the exact results are formed on integers before the one rounding; the special values by cases. -/
theorem arithmeticRoundsTheExactResult : Obligations.ArithmeticRoundsTheExactResult := by
  refine ⟨fun a b m n e f => ⟨f32mul_rounds a b m n e f, f32add_rounds a b m n e f, f32sub_rounds a b m n e f⟩,
    fun n hn => ?_, fun x => ?_, fun a b e => ?_⟩
  · exact roundF32_exact (realValue_natCast n) hn
  · cases x <;> exact ⟨rfl, rfl, rfl, rfl, rfl, rfl⟩
  · cases a <;> exact ⟨rfl, rfl, rfl, rfl⟩

/-! ### Truncation toward zero (rule R268) -/

theorem truncMagnitude_eq_floor (m : Nat) (e : Int) : truncMagnitude m e = ⌊realValue false m e⌋₊ := by
  rw [truncMagnitude]
  split
  · next h => rw [realValue_of_nonneg m h, Nat.floor_natCast]
  · next h => rw [realValue_of_neg m h, Nat.floor_div_eq_div]

theorem exceeds_iff (m : Nat) (e : Int) (n : Nat) : exceeds m e n = true ↔ (n : ℚ) < realValue false m e := by
  rw [exceeds]
  split
  · next h => rw [realValue_of_nonneg m h, decide_eq_true_iff, Nat.cast_lt]
  · next h =>
    rw [realValue_of_neg m h, decide_eq_true_iff, lt_div_iff₀ (by positivity)]
    norm_cast

/-- A positive value: its whole part below `2^31`. -/
theorem truncS32_of_pos (m : Nat) (e : Int) :
    (2 ^ 31 ≤ realValue false m e → truncS32 (.fin false m e) = none) ∧
    (realValue false m e < 2 ^ 31 → ∃ w, truncS32 (.fin false m e) = some w ∧ w.toInt = ⌊realValue false m e⌋) := by
  have htrunc := truncMagnitude_eq_floor m e
  have hnonneg := realValue_nonneg m e
  rw [truncS32, htrunc]
  generalize realValue false m e = v at *
  refine ⟨fun h => if_pos (Nat.le_floor (by exact_mod_cast h)), fun h => ?_⟩
  have hlt : ⌊v⌋₊ < 2 ^ 31 := (Nat.floor_lt hnonneg).2 (by exact_mod_cast h)
  refine ⟨_, if_neg hlt.not_ge, ?_⟩
  rw [← Int.natCast_floor_eq_floor hnonneg, ← BitVec.ofInt_natCast, BitVec.toInt_ofInt,
    Int.bmod_eq_of_le (by omega) (by omega)]

/-- A negative value: the negative of its magnitude's whole part, down to `-2^31`. -/
theorem truncS32_of_neg (m : Nat) (e : Int) :
    (2 ^ 31 < realValue false m e → truncS32 (.fin true m e) = none) ∧
    (realValue false m e ≤ 2 ^ 31 → ∃ w, truncS32 (.fin true m e) = some w ∧ w.toInt = -⌊realValue false m e⌋) := by
  have htrunc := truncMagnitude_eq_floor m e
  have hnonneg := realValue_nonneg m e
  have hexceeds := exceeds_iff m e (2 ^ 31)
  rw [truncS32, htrunc]
  generalize realValue false m e = v at *
  push_cast at hexceeds
  refine ⟨fun h => if_pos (hexceeds.2 h), fun h => ?_⟩
  have hle : ⌊v⌋₊ ≤ 2 ^ 31 := Nat.floor_le_of_le (by exact_mod_cast h)
  refine ⟨_, if_neg fun hout => h.not_gt (hexceeds.1 hout), ?_⟩
  rw [← Int.natCast_floor_eq_floor hnonneg, BitVec.toInt_ofInt, Int.bmod_eq_of_le (by omega) (by omega)]

/-- Toward zero is down for a positive value and up for a negative one. -/
theorem towardZero_neg {v : ℚ} (h : 0 ≤ v) : (if 0 ≤ -v then ⌊-v⌋ else ⌈-v⌉) = -⌊v⌋ := by
  rw [Int.ceil_neg]
  split
  · next hneg =>
    obtain rfl : v = 0 := le_antisymm (neg_nonneg.1 hneg) h
    simp
  · rfl

/-- Settles O58: by the sign; the four words are evaluated. -/
theorem truncationIsTowardZero : Obligations.TruncationIsTowardZero := by
  refine ⟨rfl, fun _ => rfl, fun neg m e => ?_, by decide, by decide, by decide, by decide⟩
  have hnonneg := realValue_nonneg m e
  cases neg with
  | false =>
    obtain ⟨hout, hin⟩ := truncS32_of_pos m e
    refine ⟨fun h => hout (h.resolve_right (by linarith)), fun h _ => ?_⟩
    rw [if_pos hnonneg]
    exact hin h
  | true =>
    obtain ⟨hout, hin⟩ := truncS32_of_neg m e
    intro v
    rw [show v = -realValue false m e from realValue_not false m e, towardZero_neg hnonneg]
    exact ⟨fun h => hout (by rcases h with h | h <;> linarith), fun _ h => hin (by linarith)⟩

end Sys2Proof.Machine

/-! The transformer: what it makes of integers that binary32 holds exactly, and the whole effect of MAP. -/

namespace Sys2Proof.Machine

/-! ### Exact integers through the operations (rules R266, R267, R268) -/

/-- `x` is finite and its value is the integer `z`. -/
def F32.IsInt (x : F32) (z : Int) : Prop := ∃ neg m e, x = .fin neg m e ∧ realValue neg m e = z

theorem F32.Rounds.isInt {x : F32} {z : Int} (h : x.Rounds z) (hz : z.natAbs < 2 ^ 24) : x.IsInt z := by
  obtain ⟨neg, k, g, rfl, hv⟩ := h
  exact ⟨neg, roundF32_exact hv hz⟩

theorem f32_isInt {n : Nat} (hn : n < 2 ^ 24) : (f32 n).IsInt n :=
  F32.Rounds.isInt ⟨false, n, 0, rfl, realValue_natCast n⟩ hn

theorem ofBits_one_isInt : (F32.ofBits 0x3F800000).IsInt 1 := ⟨false, 2 ^ 23, -23, by decide, by norm_num [realValue]⟩

theorem ofBits_zero_isInt : (F32.ofBits 0x00000000).IsInt 0 := ⟨false, 0, -149, by decide, by simp⟩

section Exact

variable {x y : F32} {a b : Int} (hx : x.IsInt a) (hy : y.IsInt b)
include hx hy

theorem F32.IsInt.mul (h : (a * b).natAbs < 2 ^ 24) : (f32mul x y).IsInt (a * b) := by
  obtain ⟨na, m, e, rfl, ha⟩ := hx
  obtain ⟨nb, n, f, rfl, hb⟩ := hy
  refine F32.Rounds.isInt ?_ h
  rw [Int.cast_mul, ← ha, ← hb]
  exact f32mul_rounds na nb m n e f

theorem F32.IsInt.add (h : (a + b).natAbs < 2 ^ 24) : (f32add x y).IsInt (a + b) := by
  obtain ⟨na, m, e, rfl, ha⟩ := hx
  obtain ⟨nb, n, f, rfl, hb⟩ := hy
  refine F32.Rounds.isInt ?_ h
  rw [Int.cast_add, ← ha, ← hb]
  exact f32add_rounds na nb m n e f

theorem F32.IsInt.sub (h : (a - b).natAbs < 2 ^ 24) : (f32sub x y).IsInt (a - b) := by
  obtain ⟨na, m, e, rfl, ha⟩ := hx
  obtain ⟨nb, n, f, rfl, hb⟩ := hy
  refine F32.Rounds.isInt ?_ h
  rw [Int.cast_sub, ← ha, ← hb]
  exact f32sub_rounds na nb m n e f

end Exact

theorem F32.IsInt.trunc {x : F32} {z : Int} (h : x.IsInt z) (hz : z.natAbs < 2 ^ 24) :
    truncS32 x = some (BitVec.ofInt 32 z) := by
  obtain ⟨neg, m, e, rfl, hv⟩ := h
  obtain ⟨_, _, htrunc, _⟩ := truncationIsTowardZero
  have hlt : (z : ℚ) < (2 ^ 31 : Int) := Int.cast_lt.2 (by omega)
  have hge : ((-2 ^ 31 : Int) : ℚ) ≤ z := Int.cast_le.2 (by omega)
  obtain ⟨w, hw, hword⟩ := (htrunc neg m e).2 (by rw [hv]; exact_mod_cast hlt) (by rw [hv]; exact_mod_cast hge)
  rw [hv, Int.floor_intCast, Int.ceil_intCast, ite_self] at hword
  rw [hw, ← hword, BitVec.ofInt_toInt]

/-! ### The identity coefficients (rules R265, R272) -/

/-- Both screen formulas with factor 1.0 and offset 0. -/
theorem trunc_screenValue_identity (neg : Bool) {dim raw : Nat} (hdim : dim < 32768) (hraw : raw < 65536) :
    truncS32 (screenValue neg 0x3F800000 0x00000000 dim raw) =
      some (BitVec.ofInt 32 (if neg then (dim : Int) - raw else raw)) := by
  have hprod := ofBits_one_isInt.mul (f32_isInt (n := raw) (by omega)) (by omega)
  rw [one_mul] at hprod
  cases neg with
  | false =>
    have hsum := hprod.add ofBits_zero_isInt (by omega)
    rw [add_zero] at hsum
    exact hsum.trunc (by omega)
  | true =>
    have hdiff := ((f32_isInt (n := dim) (by omega)).sub hprod (by omega)).sub ofBits_zero_isInt (by omega)
    rw [sub_zero] at hdiff
    exact hdiff.trunc (by omega)

theorem dims_lt_of_wf {c : Config} (h : c.wf = true) (o : Orientation) : width c o < 32768 ∧ height c o < 32768 := by
  simp only [Config.wf, Bool.and_eq_true, decide_eq_true_eq] at h
  obtain ⟨⟨⟨⟨⟨⟨_, hw⟩, _⟩, hh⟩, _⟩, _⟩, _⟩ := h
  rw [width, height]
  split <;> omega

/-- With the identity coefficients a transform reflects in the panel what the orientation's row negates. -/
theorem xformValue_identity (row : OrientRow) (hswap : row.swap = false) {w h rx ry : Nat} (hw : w < 32768)
    (hh : h < 32768) (hrx : rx < 65536) (hry : ry < 65536) :
    xformValue row ⟨0x3F800000, 0x3F800000, 0x00000000, 0x00000000⟩ w h rx ry =
      .ok (BitVec.ofInt 32 (if row.negX then (w : Int) - rx else rx))
        (BitVec.ofInt 32 (if row.negY then (h : Int) - ry else ry)) := by
  simp only [xformValue, hswap, trunc_screenValue_identity row.negX hw hrx, trunc_screenValue_identity row.negY hh hry,
    if_neg Bool.false_ne_true]

/-- Settles O59: every intermediate result is an integer of at most 24 bits, so no operation rounds. -/
theorem identityCoefficientsMapToThemselves : Obligations.IdentityCoefficientsMapToThemselves := by
  intro s rx ry hrx hry hwf hmap hvalid hbank
  obtain ⟨hw, hh⟩ := dims_lt_of_wf hwf s.orient
  have hxform (row : OrientRow) (hrow : entry defaultOrientMap s.orient = row) (hsupported : row.supported = true)
      (hswap : row.swap = false) : s.xform rx ry =
        .ok (BitVec.ofInt 32 (if row.negX then (width s.cfg s.orient : Int) - rx else rx))
          (BitVec.ofInt 32 (if row.negY then (height s.cfg s.orient : Int) - ry else ry)) := by
    rw [State.xform, hmap, hrow, hbank, xformValue_identity row hswap hw hh hrx hry, if_neg]
    simp [xformRefused, bankValid, hsupported, hvalid]
  refine ⟨fun ho => ?_, fun ho => ?_⟩
  · have h := hxform ⟨true, false, false, false⟩ (by rw [ho]; rfl) rfl rfl
    simpa using h
  · exact hxform ⟨true, false, true, true⟩ (by rw [ho]; rfl) rfl rfl

/-! ### MAP (rules R260, R263, R269, R270) -/

/-- MAP commits what XFORM answers for the raw sample it latched. -/
theorem commit_finished_map {s : State} (hidle : s.engine = .idle) :
    commit (Running.finished s.cfg .map []) (s.finished .map []) =
      (s.completed .map []).commitXform (s.xform s.arg.x0 s.arg.y0) := by
  have hresults : commitResults (Running.finished s.cfg .map []) (s.finished .map []) =
      (s.finished .map []).commitXform (s.xform s.arg.x0 s.arg.y0) := rfl
  rw [commit, hresults, ← completed_setIdle hidle]
  cases s.xform s.arg.x0 s.arg.y0 <;> rfl

/-- Settles O26: `finish()` alone, then XFORM's three answers. -/
theorem mapCompletes : Obligations.MapCompletes := by
  intro s hrest a o row bank rawX rawY value
  obtain ⟨t, hexec, hbusy, hsettle⟩ := exec_commits hrest (i := .map) rfl (by simp [needsReady]) (es := []) rfl
  refine ⟨t, hexec, hbusy, hsettle.trans ((commit_finished_map hrest.1).trans ?_)⟩
  have hrefused : xformRefused row (bankValid s.calValid o) = true ↔
      row.supported = false ∨ s.calValid.getLsbD o.toNat = false := by simp [xformRefused, bankValid]
  have hvalue : value = screenValue := rfl
  rw [State.xform]
  split
  · next h => rw [if_pos (hrefused.1 h)]; rfl
  · next h =>
    rw [if_neg (mt hrefused.2 h), xformValue, hvalue]
    generalize truncS32 (screenValue row.negX bank.xfac bank.xoff (width s.cfg o) rawX) = ix,
      truncS32 (screenValue row.negY bank.yfac bank.yoff (height s.cfg o) rawY) = iy
    cases ix <;> cases iy <;> rfl

end Sys2Proof.Machine

/-! A command in time: that it runs to its commit, that its results appear there and not before, that what the host
preloads into the arguments meanwhile does not reach it, and that a block reset ends it at once. -/

namespace Sys2Proof.Machine

/-! ### Termination (rules R40, R292, R338) -/

theorem engineStep_inputs (s : State) : (engineStep s).inputs = s.inputs := by
  rcases engineStep_cases s with ⟨_, h⟩ | ⟨r, _, _, h⟩ | ⟨r, slot, rest, _, _, h⟩ <;> rw [h]
  · obtain ⟨_, _, _, _, _, _, _, _, _, _, hinputs, _⟩ := commit_frame r s
    exact hinputs
  · obtain ⟨_, _, _, _, _, _, _, _, _, _, _, _, _, _, hinputs⟩ := performSlot_frame s r rest slot
    exact hinputs

/-- With no input left a step is one of the engine (rules R313, R337). -/
theorem step_of_inputs_nil {s : State} (h : s.inputs = []) : step s = .next (engineStep s) := by
  rw [step, State.cycle, h]

theorem run_of_inputs_nil (n : Nat) : ∀ {s : State}, s.inputs = [] →
    Host.Core.run core n s = .next (engineSteps n s) := by
  induction n with
  | zero => intro s _; rfl
  | succ n ih =>
    intro s h
    have hstep : core.step s = .next (engineStep s) := step_of_inputs_nil h
    simp only [Host.Core.run, hstep]
    exact ih ((engineStep_inputs s).trans h)

/-- A running command settles in a commit. -/
theorem settle_eq_commit {s : State} {r : Running} (hrun : s.engine = .run r) :
    ∃ s' r', s.settle = commit r' s' := by
  obtain ⟨s', r', hsettle, _⟩ := settle_commits (P := fun _ => True) (fun _ _ _ _ _ _ _ => trivial) hrun trivial
  exact ⟨s', r', hsettle⟩

/-- Settles O27: a running command settles in its commit, an idle machine is settled, and without inputs the machine's
steps are the engine's. -/
theorem everyCommandCommits : Obligations.EveryCommandCommits := by
  intro s
  refine ⟨?idle, fun hbusy => ?done, run_of_inputs_nil s.stepsLeft⟩
  case idle =>
    cases hengine : s.engine with
    | idle =>
      rw [settle_idle s hengine]
      exact (State.not_busy_iff s).2 hengine
    | run r =>
      obtain ⟨s', r', hsettle⟩ := settle_eq_commit hengine
      rw [hsettle]
      rfl
  case done =>
    obtain ⟨r, hrun⟩ := (State.busy_iff s).1 hbusy
    obtain ⟨s', r', hsettle⟩ := settle_eq_commit hrun
    rw [hsettle]
    exact commit_done r' s'

/-! ### Results only at the commit (rules R40, R74, R324) -/

/-- STATUS bits 1 to 5, from bit 1 on: the bits no host write touches. -/
def Status.levels (st : Status) : List Bool := [st.ready, st.dirty, st.winopen, st.tvalid, st.pressed]

theorem readReg_status_level (s : State) {k : Nat} (hlow : 1 ≤ k) (hhigh : k ≤ 5) :
    (s.readReg .status).getLsbD k = s.status.levels.getD (k - 1) false := by
  rw [readReg_status_bit]
  interval_cases k <;> rfl

/-- No host write changes STATUS bits 1 to 5: a rejection or an overrun sets sticky bits only (rules R24, R38). -/
theorem writeReg_levels {v : Word} {s t : State} {r : HostReg} (h : s.writeReg v r = .next t) :
    t.status.levels = s.status.levels := by
  cases r with
  | cmd => rcases writeCmd_next_cases h with rfl | rfl | rfl | rfl | ⟨_, i, acts, rfl⟩ <;> rfl
  | calSel | calXfac | calYfac | calXoff | calYoff | calValid =>
    cases h
    rcases writeCal_cases _ s with hw | ⟨_, hw⟩ <;> rw [hw] <;> rfl
  | _ =>
    cases h
    rfl

theorem HostPart.levels {s u : State} (h : HostPart s u) : u.status.levels = s.status.levels := by
  rcases h with ⟨inputs, reads, rfl⟩ | ⟨off, v, tick, rest, r, _, _, hw⟩
  · rfl
  · exact writeReg_levels (s := { s with inputs := rest }) hw

/-- The registers a command's results go to read from fields no host access writes. -/
theorem KeepsResults.readReg {s t : State} (h : KeepsResults s t) :
    ∀ reg ∈ ([.geom, .orient, .traw, .tsx, .tsy] : List HostReg), t.readReg reg = s.readReg reg := by
  simp only [List.forall_mem_cons, List.not_mem_nil, false_implies, implies_true, State.readReg, State.geom,
    h.orient, h.cfg, h.traw, h.tsx, h.tsy, and_self]

/-- A step after which the command still runs is the host's part, after which the window reads as before. -/
theorem step_still_running {s t : State} (hbusy : s.busy = true) (h : step s = .next t) (ht : t.busy = true) :
    ∃ u, HostPart s u ∧ ∀ reg, t.readReg reg = u.readReg reg := by
  rcases step_parts h with ⟨a, rest, _, hreset⟩ | ⟨u, hu, rfl | ⟨_, rfl⟩⟩
  · obtain ⟨hidle, _⟩ := accessInReset_blockReset hreset
    exact absurd (ht.symm.trans ((State.not_busy_iff t).2 hidle)) (by decide)
  · exact ⟨t, hu, fun _ => rfl⟩
  · obtain ⟨r, hrun⟩ := (State.busy_iff s).1 hbusy
    obtain ⟨hengine, _⟩ := hu.of_busy hbusy
    have hrun' : u.engine = .run r := hengine.trans hrun
    cases htodo : r.todo with
    | nil =>
      rw [engineStep_commit u r hrun' htodo] at ht
      exact absurd ht Bool.false_ne_true
    | cons slot rest =>
      rw [engineStep_slot u r slot rest hrun' htodo]
      exact ⟨u, hu, performSlot_readReg hrun' rest slot⟩

/-- The host reads the register at `off` in the cycle of the engine's next step: a turn of POLL reads STATUS (rule R121),
an access with `tick` the register it names. -/
def ReadsBeside (s : State) (off : Nat) : Prop :=
  (s.inputs.head? = some .poll ∧ off = 4) ∨
    (s.inputs.head? = some (.access (.read off 4) true) ∧ off % 4 = 0 ∧ off < 0x80)

/-- The machine with these inputs left and these values read. -/
def State.withReads (s : State) (inputs : List Input) (reads : List ReadData) : State :=
  { s with inputs := inputs, reads := reads }

/-- The registers do not show what inputs are left or what the host has read. -/
theorem withReads_readReg (s : State) (inputs : List Input) (reads : List ReadData) (reg : HostReg) :
    (s.withReads inputs reads).readReg reg = s.readReg reg := by
  cases reg <;> rfl

/-- Where the engine steps with no write beside it, the host's part is at most one read, of the value before the engine's
step. -/
theorem step_without_write {s : State} (hbusy : s.busy = true)
    (h : s.inputs = [] ∨ s.inputs.head? = some .engine ∨ ∃ off, ReadsBeside s off) :
    ∃ inputs reads, step s = .next (engineStep (s.withReads inputs reads)) ∧
      ∀ off, ReadsBeside s off → ∃ reg, registerAt off 4 = some reg ∧ reads = s.reads ++ [⟨off, s.readReg reg⟩] := by
  rcases h with hnil | hengine | ⟨off, ⟨hpoll, rfl⟩ | ⟨hread, halign, hrange⟩⟩
  · exact ⟨s.inputs, s.reads, step_of_inputs_nil hnil, fun off hoff => by simp [ReadsBeside, hnil] at hoff⟩
  · obtain ⟨rest, hinputs⟩ := List.head?_eq_some_iff.1 hengine
    refine ⟨rest, s.reads, ?_, fun off hoff => by simp [ReadsBeside, hengine] at hoff⟩
    rw [step, State.cycle, hinputs]
    rfl
  · obtain ⟨rest, hinputs⟩ := List.head?_eq_some_iff.1 hpoll
    refine ⟨.poll :: rest, s.reads ++ [⟨4, s.readReg .status⟩], ?_, fun off hoff => ⟨.status, ?_⟩⟩
    · rcases pollTurn_cases { s with inputs := rest } with ⟨hidle, _⟩ | ⟨_, hturn⟩
      · exact absurd (hbusy.symm.trans hidle) (by decide)
      · rw [step, State.cycle, hinputs]
        exact congrArg _ hturn
    · obtain rfl : off = 4 := by simpa [ReadsBeside, hpoll] using hoff
      exact ⟨rfl, rfl⟩
  · obtain ⟨rest, hinputs⟩ := List.head?_eq_some_iff.1 hread
    obtain ⟨reg, hreg⟩ := Option.isSome_iff_exists.1 ((registerAt_isSome off 4).2 ⟨rfl, halign, hrange⟩)
    refine ⟨rest, s.reads ++ [⟨off, s.readReg reg⟩], ?_, fun off' hoff => ⟨reg, ?_⟩⟩
    · rw [step_access hinputs, hbusy, access_read_eq _ hreg]
      rfl
    · obtain ⟨rfl, _⟩ : off = off' ∧ off' % 4 = 0 ∧ off' < 0x80 := by simpa [ReadsBeside, hread] using hoff
      exact ⟨hreg, rfl⟩

/-- Settles O28: while the command runs on, the host's part reaches none of the results and the engine's event no
register; without a write, the step is the engine's event or commit after at most one read. -/
theorem resultsAppearAtCommit : Obligations.ResultsAppearAtCommit := by
  intro s r hrun reads
  have hbusy : s.busy = true := (State.busy_iff s).2 ⟨r, hrun⟩
  refine ⟨fun t hstep ht => ?_, fun hnext => ?_⟩
  · obtain ⟨u, hu, hread⟩ := step_still_running hbusy hstep ht
    refine ⟨fun reg hreg => (hread reg).trans (hu.keepsResults.readReg reg hreg), fun k hlow hhigh => ?_⟩
    rw [hread, readReg_status_level u hlow hhigh, readReg_status_level s hlow hhigh, hu.levels]
  · obtain ⟨inputs, delivered, hstep, hdelivered⟩ := step_without_write hbusy hnext
    have hrun' : (s.withReads inputs delivered).engine = .run r := hrun
    cases htodo : r.todo with
    | nil =>
      rw [engineStep_commit _ r hrun' htodo] at hstep
      obtain ⟨hlog, _, hpins, harg, _, _, _, hcal, _, _, _, hreads, _⟩ := commit_frame r (s.withReads inputs delivered)
      exact ⟨_, hstep, fun hne => absurd rfl hne, fun _ => ⟨rfl, rfl, harg, hcal, hlog, hpins⟩,
        fun off hoff => (hdelivered off hoff).imp fun _ => And.imp_right hreads.trans⟩
    | cons slot rest =>
      rw [engineStep_slot _ r slot rest hrun' htodo] at hstep
      obtain ⟨_, _, _, _, _, _, _, hcal, _, _, _, _, hreads, _⟩ :=
        performSlot_frame (s.withReads inputs delivered) r rest slot
      obtain ⟨e, hlog, _, r', hstill, _⟩ := performSlot_log (s.withReads inputs delivered) r rest slot
      have hreg (reg : HostReg) := (performSlot_readReg hrun' rest slot reg).trans (withReads_readReg s _ _ reg)
      exact ⟨_, hstep, fun _ => ⟨(State.busy_iff _).2 ⟨r', hstill⟩, hreg, hcal, e, hlog⟩,
        fun hnil => absurd hnil (List.cons_ne_nil _ _),
        fun off hoff => (hdelivered off hoff).imp fun _ => And.imp_right hreads.trans⟩

/-! ### Argument preloading (rule R323) -/

/-- The machine with other values in ARG0 to ARG3. -/
def State.withArg (a : Args) (s : State) : State := { s with arg := a }

/-- A slot makes its event whatever ARG0 to ARG3 hold. -/
theorem performSlot_withArg (a : Args) (s : State) (r : Running) (rest : List Slot) (slot : Slot) :
    (s.withArg a).performSlot r rest slot = (s.performSlot r rest slot).withArg a := by
  cases slot <;> rfl

theorem commitXform_withArg (a : Args) (res : XformResult) (s : State) :
    (s.withArg a).commitXform res = (s.commitXform res).withArg a := by
  cases res <;> rfl

/-- What a command commits depends on the latched arguments only (rule R39). -/
theorem commitResults_withArg (a : Args) (r : Running) (s : State) :
    commitResults r (s.withArg a) = (commitResults r s).withArg a := by
  obtain ⟨cmd, todo, rx, pen, ramwr⟩ := r
  cases cmd with
  | stream =>
    cases hopen : s.status.winopen <;> simp [commitResults, commitStream, State.withArg, hopen]
  | map => exact commitXform_withArg a (s.xform s.argl.x0 s.argl.y0) s
  | touchScan =>
    have hpress (mean : Nat × Nat) : (s.withArg a).commitPress mean = (s.commitPress mean).withArg a :=
      commitXform_withArg a (s.xform mean.1 mean.2) { s with traw := packRaw mean }
    have hcfg : (s.withArg a).cfg = s.cfg := rfl
    simp only [commitResults, commitTouchScan, hcfg, hpress]
    split <;> rfl
  | _ => rfl

theorem engineStep_withArg (a : Args) (s : State) : engineStep (s.withArg a) = (engineStep s).withArg a := by
  rcases engineStep_cases s with ⟨hidle, h⟩ | ⟨r, hrun, htodo, h⟩ | ⟨r, slot, rest, hrun, htodo, h⟩ <;> rw [h]
  · exact engineStep_idle (s.withArg a) hidle
  · rw [engineStep_commit (s.withArg a) r hrun htodo, commit, commitResults_withArg]
    rfl
  · rw [engineStep_slot (s.withArg a) r slot rest hrun htodo, performSlot_withArg]

theorem engineSteps_withArg (a : Args) (n : Nat) :
    ∀ s : State, engineSteps n (s.withArg a) = (engineSteps n s).withArg a := by
  induction n with
  | zero => intro s; rfl
  | succ n ih => intro s; rw [engineSteps_succ, engineStep_withArg, ih, engineSteps_succ]

/-- Settles O30: every engine step is the same whatever ARG0 to ARG3 hold, so the whole run is. -/
theorem argumentPreloadIsSafe : Obligations.ArgumentPreloadIsSafe := fun s _ =>
  ⟨access_write_arg s, fun a => engineSteps_withArg a s.stepsLeft s⟩

/-! ### Block reset while a command runs (rule R311) -/

/-- A block reset while BUSY is 1 leaves nothing known of the panel (rules R86, R311). -/
theorem blockReset_panel_of_busy {s : State} (h : s.busy = true) : s.blockReset.panel = Panel.reset := by
  rw [State.blockReset_panel, h]
  rfl

/-- Settles O37: the step leaves the block reset of the state before, whose engine is idle and stays so. -/
theorem resetAbortsTheCommand : Obligations.ResetAbortsTheCommand := by
  intro s rest hinputs hbusy
  exact ⟨_, step_reset hinputs, rfl, fun n => engineSteps_idle n _ rfl, fun _ => blockReset_readReg_eq_zero _, rfl,
    blockReset_panel_of_busy (s := { s with inputs := rest }) hbusy⟩

end Sys2Proof.Machine
